-- ==== Sys2Proof/Word.lean ====
section
/-! DEFINITION. The words of the block: 32-bit port words (20 R60) and the 8-bit descrambler registers (10 R32, R33, R49). -/

namespace Sys2Proof

/-- A 32-bit word of a port or of a register. A binary32 value is kept as its bit pattern (20 R66). -/
abbrev Word := BitVec 32

/-- An 8-bit register (LFSR, LFSR_POLY, LFSR_SEED). -/
abbrev Byte := BitVec 8

end Sys2Proof
end

