-- ==== Sys2Proof/Machine/Binary32.lean ====
section
/-! DEFINITION. IEEE 754 binary32 arithmetic on bit patterns (00 R10; log entry 7).

Every finite binary32 value is a whole number of units of 2^-149, the smallest subnormal. Operands
are taken to that exact number, the operation is exact on integers or rationals, and one rounding
takes the result back to a pattern. -/

namespace Sys2Proof.Machine

/-- The canonical NaN (00 R10). -/
def canonicalNaN : Word := 0x7FC00000#32
/-- The magnitude pattern of an infinity. -/
def infMag : Nat := 0x7F800000

/-- The sign bit. -/
def fsign (x : Word) : Bool := x.msb
/-- The pattern without its sign: for two values that are no NaN, magnitudes compare as these do. -/
def fmag (x : Word) : Nat := x.toNat % 2 ^ 31
def fisNaN (x : Word) : Bool := infMag < fmag x
def fisInf (x : Word) : Bool := fmag x == infMag
/-- `finite(v)` of 40 R122: neither infinite nor NaN. -/
def finite (x : Word) : Bool := fmag x < infMag
def fisZero (x : Word) : Bool := fmag x == 0

/-- The magnitude a finite pattern stands for, in units of 2^-149. -/
def magUnits (m : Nat) : Nat :=
  if m / 2 ^ 23 = 0 then m % 2 ^ 23 else (2 ^ 23 + m % 2 ^ 23) * 2 ^ (m / 2 ^ 23 - 1)

/-- The magnitude of a finite value in units of 2^-149. -/
def funits (x : Word) : Nat := magUnits (fmag x)

/-- A finite value as a signed number of units of 2^-149. -/
def fvalue (x : Word) : Int := if fsign x then -(funits x : Int) else (funits x : Int)

/-- A pattern from a sign and a magnitude pattern. -/
def fpack (neg : Bool) (mag : Nat) : Word := BitVec.ofNat 32 (if neg then 2 ^ 31 + mag else mag)

/-- `num / den` rounded to the nearest integer, ties to even. -/
def roundHalfEven (num den : Nat) : Nat :=
  if 2 * (num % den) < den then num / den
  else if den < 2 * (num % den) then num / den + 1
  else num / den + num / den % 2

/-- How many low bits of an integer part `q` lie below the last place of a 24-bit significand. -/
def dropBits (q : Nat) : Nat := q.log2 - 23

/-- The magnitude pattern nearest to `num / den` units of 2^-149, ties to even, with gradual
underflow, and infinity on overflow. With `k` dropped bits the significand `m` and its exponent
together are the pattern `k * 2^23 + m`, a carry out of the significand included. -/
def roundMag (num den : Nat) : Nat :=
  let k := dropBits (num / den)
  min (k * 2 ^ 23 + roundHalfEven num (den * 2 ^ k)) infMag

/-- An exact signed number of units, rounded; an exact zero takes the sign given. -/
def roundInt (zeroNeg : Bool) (v : Int) : Word :=
  if v = 0 then fpack zeroNeg 0 else fpack (v < 0) (roundMag v.natAbs 1)

/-- `fadd` (00 R10). -/
def fadd (a b : Word) : Word :=
  if fisNaN a || fisNaN b then canonicalNaN
  else if fisInf a then (if fisInf b && fsign a != fsign b then canonicalNaN else a)
  else if fisInf b then b
  else roundInt (fsign a && fsign b) (fvalue a + fvalue b)

/-- The value with the sign flipped. -/
def fneg (x : Word) : Word := x ^^^ 0x80000000#32

/-- `fsub` (00 R10). -/
def fsub (a b : Word) : Word := fadd a (fneg b)

/-- `fmul` (00 R10). -/
def fmul (a b : Word) : Word :=
  let neg := fsign a != fsign b
  if fisNaN a || fisNaN b then canonicalNaN
  else if fisInf a || fisInf b then
    (if fisZero a || fisZero b then canonicalNaN else fpack neg infMag)
  else fpack neg (roundMag (funits a * funits b) (2 ^ 149))

/-- `fdiv` (00 R10). -/
def fdiv (a b : Word) : Word :=
  let neg := fsign a != fsign b
  if fisNaN a || fisNaN b then canonicalNaN
  else if fisInf a then (if fisInf b then canonicalNaN else fpack neg infMag)
  else if fisInf b then fpack neg 0
  else if fisZero b then (if fisZero a then canonicalNaN else fpack neg infMag)
  else fpack neg (roundMag (funits a * 2 ^ 149) (funits b))

/-- The integer square root of `v` below `2 ^ bits`, built from its highest bit down onto `r`. -/
def isqrtFrom (v : Nat) : Nat → Nat → Nat
  | 0, r => r
  | b + 1, r => if (r + 2 ^ b) * (r + 2 ^ b) ≤ v then isqrtFrom v b (r + 2 ^ b) else isqrtFrom v b r

/-- The integer square root of any product `u * 2 ^ 149` of a finite magnitude: it is below 2^214. -/
def isqrt (v : Nat) : Nat := isqrtFrom v 214 0

/-- `fsqrt` (00 R10). The root of `u` units is `sqrt (u * 2^149)` units. Where that is no integer, it
lies strictly between two integers, and so does the half between them, on the same side of every
rounding boundary. -/
def fsqrt (a : Word) : Word :=
  if fisNaN a then canonicalNaN
  else if fisZero a then a
  else if fsign a then canonicalNaN
  else if fisInf a then a
  else
    let v := funits a * 2 ^ 149
    let r := isqrt v
    fpack false (roundMag (if r * r = v then 2 * r else 2 * r + 1) 2)

/-- The order of the patterns that are no NaN: +0 and -0 have the same key. -/
def fkey (x : Word) : Int := if fsign x then -(fmag x : Int) else (fmag x : Int)

/-- `fge`, the ordered comparison a ≥ b (00 R10). -/
def fge (a b : Word) : Bool := !fisNaN a && !fisNaN b && decide (fkey b ≤ fkey a)
/-- `fgt`, the ordered comparison a > b (00 R10). -/
def fgt (a b : Word) : Bool := !fisNaN a && !fisNaN b && decide (fkey b < fkey a)
/-- `flt`, the ordered comparison a < b (00 R10). -/
def flt (a b : Word) : Bool := !fisNaN a && !fisNaN b && decide (fkey a < fkey b)

/-! The literal constants of the pseudocode, exact binary32 values (00 R10). -/

def f0 : Word := 0x00000000#32
def f1 : Word := 0x3F800000#32
def f2 : Word := 0x40000000#32
def f4 : Word := 0x40800000#32
def f6 : Word := 0x40C00000#32
def fNeg2 : Word := 0xC0000000#32
def fNeg6 : Word := 0xC0C00000#32

end Sys2Proof.Machine
end

