-- ==== Sys2Proof/Syntax.lean ====
section
/-! DEFINITION. The commands of the block, one constructor for each row of spec/opcode_table.json (30 R88). -/

namespace Sys2Proof

/-- A command with its operands, as the command words give them. A real or integer operand is one
whole data word (30 R87), `imm` is the 16-bit immediate of a bit-form command (30 R86). -/
inductive Instr where
  /-- NOP (40 R120). -/
  | nop
  /-- RESET (40 R121). -/
  | reset
  /-- START (40 R122 to R124). -/
  | start
  /-- CSR_RD of the register number `n` (40 R125). -/
  | csrRd (n : BitVec 16)
  /-- CSR_WR of `d0` to the register number `n` (40 R126). -/
  | csrWr (n : BitVec 16) (d0 : Word)
  /-- CB_RDS of instance `sel` at the signed offset `k` (41 R146). -/
  | cbRds (sel : BitVec 4) (k : BitVec 16)
  /-- CB_RDU of instance `sel` at the unsigned offset `j` (41 R147). -/
  | cbRdu (sel : BitVec 4) (j : BitVec 16)
  /-- PC_TICK (42 R162). -/
  | pcTick
  /-- PC_ADV by `delta` (42 R163). -/
  | pcAdv (delta : Word)
  /-- PC_SIN (42 R165). -/
  | pcSin
  /-- PC_COS (42 R166). -/
  | pcCos
  /-- PC_PHASOR (42 R167). -/
  | pcPhasor
  /-- PI_UPDATE with the error `e` (43 R183). -/
  | piUpdate (e : Word)
  /-- INTERP at the fractional offset `mu` (44 R193). -/
  | interp (mu : Word)
  /-- AGC_TICK of the sample `(re, im)` (45 R201). -/
  | agcTick (re im : Word)
  /-- TED (46 R211). -/
  | ted
  /-- SS_TICK of the sample `(re, im)` (47 R223). -/
  | ssTick (re im : Word)
  /-- CORR_TICK of the bit `imm[0]` (48 R243). -/
  | corrTick (imm : BitVec 16)
  /-- CORR_RESET (48 R244). -/
  | corrReset
  /-- PKT_TICK of the bit `imm[0]` (48 R246). -/
  | pktTick (imm : BitVec 16)
  /-- PKT_RDW of the payload word `w` (48 R248). -/
  | pktRdw (w : BitVec 16)
  /-- LFSR_NEXT (49 R261). -/
  | lfsrNext
  /-- LFSR_SEED (49 R262). -/
  | lfsrSeed
  /-- DESCRAMBLE (49 R264). -/
  | descramble
  /-- RX_TICK of the sample `(re, im)` (49 R272). -/
  | rxTick (re im : Word)
deriving DecidableEq, Repr

end Sys2Proof
end

