-- ==== Sys2Proof/Decode.lean ====
section
/-! DEFINITION. Command framing and decoding (30 R80, R82 to R91, R95), and the encoder. -/

namespace Sys2Proof

/-- OPC, header bits [7:0] (30 R80). -/
def hdrOpc (h : Word) : BitVec 8 := h.extractLsb' 0 8
/-- SEL, header bits [11:8] (30 R80). -/
def hdrSel (h : Word) : BitVec 4 := h.extractLsb' 8 4
/-- LEN, header bits [13:12]: how many data words follow (30 R80, R83). -/
def hdrLen (h : Word) : Nat := (h.extractLsb' 12 2).toNat
/-- RSV, header bits [15:14] (30 R80). -/
def hdrRsv (h : Word) : BitVec 2 := h.extractLsb' 14 2
/-- IMM, header bits [31:16] (30 R80). -/
def hdrImm (h : Word) : BitVec 16 := h.extractLsb' 16 16

/-- The five forms of IMM (30 R86). -/
inductive ImmForm where
  | zero | csr | s16 | u16 | bit
deriving DecidableEq, Repr

/-- The operations of the opcode map (30 R88), without their operands. -/
inductive Opcode where
  | nop | reset | start | csrRd | csrWr | cbRds | cbRdu | pcTick | pcAdv | pcSin | pcCos | pcPhasor
  | piUpdate | interp | agcTick | ted | ssTick | corrTick | corrReset | pktTick | pktRdw
  | lfsrNext | lfsrSeed | descramble | rxTick
deriving DecidableEq, Repr

/-- The OPC value (30 R88). -/
def Opcode.byte : Opcode → BitVec 8
  | .nop => 0x00#8
  | .reset => 0x01#8
  | .start => 0x02#8
  | .csrRd => 0x03#8
  | .csrWr => 0x04#8
  | .cbRds => 0x10#8
  | .cbRdu => 0x11#8
  | .pcTick => 0x20#8
  | .pcAdv => 0x21#8
  | .pcSin => 0x22#8
  | .pcCos => 0x23#8
  | .pcPhasor => 0x24#8
  | .piUpdate => 0x30#8
  | .interp => 0x40#8
  | .agcTick => 0x50#8
  | .ted => 0x60#8
  | .ssTick => 0x70#8
  | .corrTick => 0x80#8
  | .corrReset => 0x81#8
  | .pktTick => 0x90#8
  | .pktRdw => 0x91#8
  | .lfsrNext => 0xA0#8
  | .lfsrSeed => 0xA1#8
  | .descramble => 0xA2#8
  | .rxTick => 0xB0#8

/-- All operations, in the order of 30 R88. -/
def Opcode.all : List Opcode :=
  [.nop, .reset, .start, .csrRd, .csrWr, .cbRds, .cbRdu, .pcTick, .pcAdv, .pcSin, .pcCos,
   .pcPhasor, .piUpdate, .interp, .agcTick, .ted, .ssTick, .corrTick, .corrReset, .pktTick,
   .pktRdw, .lfsrNext, .lfsrSeed, .descramble, .rxTick]

/-- NDATA, the number of command data words (30 R88). -/
def Opcode.ndata : Opcode → Nat
  | .csrWr | .pcAdv | .piUpdate | .interp => 1
  | .agcTick | .ssTick | .rxTick => 2
  | .nop | .reset | .start | .csrRd | .cbRds | .cbRdu | .pcTick | .pcSin | .pcCos | .pcPhasor
  | .ted | .corrTick | .corrReset | .pktTick | .pktRdw | .lfsrNext | .lfsrSeed | .descramble => 0

/-- NRESP, the number of response data words on success (30 R88). -/
def Opcode.nresp : Opcode → Nat
  | .csrRd | .pcTick | .pcAdv | .pcSin | .pcCos | .piUpdate | .ted | .pktRdw => 1
  | .cbRds | .cbRdu | .pcPhasor | .interp | .agcTick | .ssTick | .rxTick => 2
  | .nop | .reset | .start | .csrWr | .corrTick | .corrReset | .pktTick | .lfsrNext | .lfsrSeed
  | .descramble => 0

/-- SEL names a buffer instance; elsewhere it must be 0 (30 R85). -/
def Opcode.usesSel : Opcode → Bool
  | .cbRds | .cbRdu => true
  | .nop | .reset | .start | .csrRd | .csrWr | .pcTick | .pcAdv | .pcSin | .pcCos | .pcPhasor
  | .piUpdate | .interp | .agcTick | .ted | .ssTick | .corrTick | .corrReset | .pktTick | .pktRdw
  | .lfsrNext | .lfsrSeed | .descramble | .rxTick => false

/-- The form of IMM (30 R88). -/
def Opcode.immForm : Opcode → ImmForm
  | .csrRd | .csrWr => .csr
  | .cbRds => .s16
  | .cbRdu | .pktRdw => .u16
  | .corrTick | .pktTick => .bit
  | .nop | .reset | .start | .pcTick | .pcAdv | .pcSin | .pcCos | .pcPhasor | .piUpdate | .interp
  | .agcTick | .ted | .ssTick | .corrReset | .lfsrNext | .lfsrSeed | .descramble | .rxTick => .zero

/-- The match and mask of each operation's headers (30 R88): a header selects the operation when
`header & mask = match`. The decoder does not use this table; the claims compare it with the decoder. -/
def Opcode.matchMask : Opcode → Word × Word
  | .nop => (0x00000000#32, 0xFFFFFFFF#32)
  | .reset => (0x00000001#32, 0xFFFFFFFF#32)
  | .start => (0x00000002#32, 0xFFFFFFFF#32)
  | .csrRd => (0x00000003#32, 0x0000FFFF#32)
  | .csrWr => (0x00001004#32, 0x0000FFFF#32)
  | .cbRds => (0x00000010#32, 0x0000F0FF#32)
  | .cbRdu => (0x00000011#32, 0x0000F0FF#32)
  | .pcTick => (0x00000020#32, 0xFFFFFFFF#32)
  | .pcAdv => (0x00001021#32, 0xFFFFFFFF#32)
  | .pcSin => (0x00000022#32, 0xFFFFFFFF#32)
  | .pcCos => (0x00000023#32, 0xFFFFFFFF#32)
  | .pcPhasor => (0x00000024#32, 0xFFFFFFFF#32)
  | .piUpdate => (0x00001030#32, 0xFFFFFFFF#32)
  | .interp => (0x00001040#32, 0xFFFFFFFF#32)
  | .agcTick => (0x00002050#32, 0xFFFFFFFF#32)
  | .ted => (0x00000060#32, 0xFFFFFFFF#32)
  | .ssTick => (0x00002070#32, 0xFFFFFFFF#32)
  | .corrTick => (0x00000080#32, 0xFFFEFFFF#32)
  | .corrReset => (0x00000081#32, 0xFFFFFFFF#32)
  | .pktTick => (0x00000090#32, 0xFFFEFFFF#32)
  | .pktRdw => (0x00000091#32, 0x0000FFFF#32)
  | .lfsrNext => (0x000000A0#32, 0xFFFFFFFF#32)
  | .lfsrSeed => (0x000000A1#32, 0xFFFFFFFF#32)
  | .descramble => (0x000000A2#32, 0xFFFFFFFF#32)
  | .rxTick => (0x000020B0#32, 0xFFFFFFFF#32)

/-- The operation an OPC value names, if it is in the table; every other value is illegal (30 R90). -/
def opcodeOf (b : BitVec 8) : Option Opcode := Opcode.all.find? fun o => o.byte == b

/-- The unused-bit rule of an IMM form (30 R86). -/
def immOk : ImmForm → BitVec 16 → Bool
  | .zero, imm => imm == 0#16
  | .csr, _ => true
  | .s16, _ => true
  | .u16, _ => true
  | .bit, imm => imm.extractLsb' 1 15 == 0#15

/-- No reserved field of the header is violated (30 R83, R85, R86, R91). -/
def fieldsOk (o : Opcode) (h : Word) : Bool :=
  hdrRsv h == 0#2 && hdrLen h == o.ndata && (o.usesSel || hdrSel h == 0#4) && immOk o.immForm (hdrImm h)

/-- Why a list of command words gives no command. -/
inductive DecodeError where
  /-- There is no header word. -/
  | noHeader
  /-- Fewer than LEN data words follow the header (30 R83): the command is not complete. -/
  | truncated
  /-- ILLEGAL_OPCODE: OPC is not in the table (30 R90). -/
  | illegalOpcode
  /-- RESERVED_FIELD: OPC is in the table and a reserved field is violated (30 R91). -/
  | reservedField
deriving DecidableEq, Repr

/-- The command of an operation from its header and data words (30 R82, R85 to R88). -/
def buildInstr (o : Opcode) (h d0 d1 : Word) : Instr :=
  match o with
  | .nop => .nop
  | .reset => .reset
  | .start => .start
  | .csrRd => .csrRd (hdrImm h)
  | .csrWr => .csrWr (hdrImm h) d0
  | .cbRds => .cbRds (hdrSel h) (hdrImm h)
  | .cbRdu => .cbRdu (hdrSel h) (hdrImm h)
  | .pcTick => .pcTick
  | .pcAdv => .pcAdv d0
  | .pcSin => .pcSin
  | .pcCos => .pcCos
  | .pcPhasor => .pcPhasor
  | .piUpdate => .piUpdate d0
  | .interp => .interp d0
  | .agcTick => .agcTick d0 d1
  | .ted => .ted
  | .ssTick => .ssTick d0 d1
  | .corrTick => .corrTick (hdrImm h)
  | .corrReset => .corrReset
  | .pktTick => .pktTick (hdrImm h)
  | .pktRdw => .pktRdw (hdrImm h)
  | .lfsrNext => .lfsrNext
  | .lfsrSeed => .lfsrSeed
  | .descramble => .descramble
  | .rxTick => .rxTick d0 d1

/-- Data word `i` of a command whose data words are `ds`; a word that is not there reads 0, which
does not arise for an accepted command (LEN = NDATA). -/
def dataWord (ds : List Word) (i : Nat) : Word := ds.getD i 0#32

/-- Read one command from the front of a list of words: the command and the words after it, or the
reason there is none. LEN alone frames the command, whatever its OPC (30 R83). The checks come in the
order of 60 R281. -/
def decode : List Word → Except DecodeError (Instr × List Word)
  | [] => .error .noHeader
  | h :: ws =>
    if ws.length < hdrLen h then .error .truncated
    else
      match opcodeOf (hdrOpc h) with
      | none => .error .illegalOpcode
      | some o =>
        if fieldsOk o h then .ok (buildInstr o h (dataWord ws 0) (dataWord ws 1), ws.drop (hdrLen h))
        else .error .reservedField

/-- A header word from its fields (30 R80), the most significant field first. -/
def mkHeader (imm : BitVec 16) (len : BitVec 2) (sel : BitVec 4) (opc : BitVec 8) : Word :=
  imm ++ (0#2 ++ (len ++ (sel ++ opc)))

/-- The operation of a command. -/
def Instr.opcode : Instr → Opcode
  | .nop => .nop
  | .reset => .reset
  | .start => .start
  | .csrRd _ => .csrRd
  | .csrWr _ _ => .csrWr
  | .cbRds _ _ => .cbRds
  | .cbRdu _ _ => .cbRdu
  | .pcTick => .pcTick
  | .pcAdv _ => .pcAdv
  | .pcSin => .pcSin
  | .pcCos => .pcCos
  | .pcPhasor => .pcPhasor
  | .piUpdate _ => .piUpdate
  | .interp _ => .interp
  | .agcTick _ _ => .agcTick
  | .ted => .ted
  | .ssTick _ _ => .ssTick
  | .corrTick _ => .corrTick
  | .corrReset => .corrReset
  | .pktTick _ => .pktTick
  | .pktRdw _ => .pktRdw
  | .lfsrNext => .lfsrNext
  | .lfsrSeed => .lfsrSeed
  | .descramble => .descramble
  | .rxTick _ _ => .rxTick

/-- The IMM field of a command (30 R86). -/
def Instr.imm : Instr → BitVec 16
  | .csrRd n => n
  | .csrWr n _ => n
  | .cbRds _ k => k
  | .cbRdu _ j => j
  | .corrTick imm => imm
  | .pktTick imm => imm
  | .pktRdw w => w
  | .nop | .reset | .start | .pcTick | .pcAdv _ | .pcSin | .pcCos | .pcPhasor | .piUpdate _
  | .interp _ | .agcTick _ _ | .ted | .ssTick _ _ | .corrReset | .lfsrNext | .lfsrSeed | .descramble
  | .rxTick _ _ => 0#16

/-- The SEL field of a command (30 R85). -/
def Instr.sel : Instr → BitVec 4
  | .cbRds sel _ => sel
  | .cbRdu sel _ => sel
  | .nop | .reset | .start | .csrRd _ | .csrWr _ _ | .pcTick | .pcAdv _ | .pcSin | .pcCos
  | .pcPhasor | .piUpdate _ | .interp _ | .agcTick _ _ | .ted | .ssTick _ _ | .corrTick _
  | .corrReset | .pktTick _ | .pktRdw _ | .lfsrNext | .lfsrSeed | .descramble | .rxTick _ _ => 0#4

/-- The data words of a command (30 R82): a complex operand is re, then im. -/
def Instr.dataWords : Instr → List Word
  | .csrWr _ d0 => [d0]
  | .pcAdv delta => [delta]
  | .piUpdate e => [e]
  | .interp mu => [mu]
  | .agcTick re im => [re, im]
  | .ssTick re im => [re, im]
  | .rxTick re im => [re, im]
  | .nop | .reset | .start | .csrRd _ | .cbRds _ _ | .cbRdu _ _ | .pcTick | .pcSin | .pcCos
  | .pcPhasor | .ted | .corrTick _ | .corrReset | .pktTick _ | .pktRdw _ | .lfsrNext | .lfsrSeed
  | .descramble => []

/-- The header word of a command (30 R80, R88). -/
def Instr.header (i : Instr) : Word :=
  mkHeader i.imm (BitVec.ofNat 2 i.opcode.ndata) i.sel i.opcode.byte

/-- The words of a command (30 R80, R82). -/
def encode (i : Instr) : List Word := i.header :: i.dataWords

/-- The four words, first word first, of an instruction whose bits are `w`, bit 0 the least
significant bit of the first word; bits at and above `nbits` are 0. Four words is the longest
command (30 R83). -/
def tableWords (nbits w : Nat) : List Word :=
  (List.range 4).map fun k => BitVec.ofNat 32 ((w % 2 ^ nbits) >>> (32 * k))

/-- The command the decoder reads from an instruction numbered as spec/opcode_table.json numbers its
bits. -/
def decodeTableWord (nbits w : Nat) : Option Instr :=
  match decode (tableWords nbits w) with
  | .ok (i, _) => some i
  | .error _ => none

end Sys2Proof
end

