-- ==== Sys2Proof/Config.lean ====
section
/-! DEFINITION. The implementation parameters of 00 R6 and the constants of 00 R13 and 10 R45, R47, R53. -/

namespace Sys2Proof.Config

/-- RAW_DEPTH, the length of the raw-sample history (00 R6). -/
def rawDepth : Nat := 8
/-- IH_DEPTH, the length of the interpolated-sample history (00 R6). -/
def ihDepth : Nat := 3
/-- SYNC_LEN_MAX, the largest syncword length (00 R6). -/
def syncLenMax : Nat := 64
/-- PKT_LEN_MAX, the largest payload length in bits (00 R6). -/
def pktLenMax : Nat := 8192
/-- THRESHOLD_MAX, the largest correlator threshold (00 R6). -/
def thresholdMax : Nat := 65535
/-- INTERP_KIND: the 4-point cubic Lagrange scheme, the only one defined (00 R6, 10 R47). -/
def interpKind : Nat := 1

/-- TAU, the binary32 value nearest 2π (00 R13). -/
def tau : Word := 0x40C90FDB#32
/-- FOUR_PI, the binary32 value nearest 4π (00 R13). -/
def fourPi : Word := 0x41490FDB#32

/-- The constant the ID register reads (10 R53). -/
def idValue : Word := 0x52524644#32
/-- The constant the VERSION register reads (10 R53). -/
def versionValue : Word := 0x00000007#32
/-- The constant the PARAMS register reads (10 R47). -/
def paramsValue : Word := 0x00013840#32

/-- SINCOS_SIN away from the arguments whose value the spec fixes: the open parameter of 00 R6 and
42 R164. It has no body, so nothing can be proved of its values (log entry 3). -/
opaque sincosSin : Word → Word
/-- SINCOS_COS away from the arguments whose value the spec fixes (00 R6, 42 R164; log entry 3). -/
opaque sincosCos : Word → Word

end Sys2Proof.Config
end

