-- ==== Sys2Proof/Machine/State.lean ====
section
/-! DEFINITION. The state of the block (10_state.md), the two ports around it, and the reset state. -/

namespace Sys2Proof.Machine

/-- A complex value: real, then imaginary part, each a binary32 bit pattern (00 R11). -/
structure Cplx where
  re : Word
  im : Word
deriving DecidableEq, Repr, Inhabited

/-- STATE (10 R21): the three lifecycle states; the fourth encoding is never held. -/
inductive Lifecycle where
  | config
  | run
  | fault
deriving DecidableEq, Repr

/-- PSTATE (10 R42): the packetizer's two states. -/
inductive PState where
  | scanning
  | capturing
deriving DecidableEq, Repr

/-- A circular buffer (41 R140): an array of slots and the write cursor. -/
structure CBuf (α : Type) where
  data : List α
  cur : Nat
deriving DecidableEq, Repr

/-- The state of the block: exactly the elements of 10 R20. -/
structure Arch where
  /-- STATE (10 R21). -/
  lifecycle : Lifecycle
  /-- FAULT_CAUSE (10 R22). -/
  faultCause : BitVec 4
  /-- SPS (10 R24). -/
  sps : Word
  /-- LOOP_BW (10 R25). -/
  loopBw : Word
  /-- LOOP_DAMP (10 R26). -/
  loopDamp : Word
  /-- AGC_ALPHA (10 R27). -/
  agcAlpha : Word
  /-- SYNC_LEN (10 R28). -/
  syncLen : Word
  /-- SYNC_PAT_LO (10 R29). -/
  syncPatLo : Word
  /-- SYNC_PAT_HI (10 R29). -/
  syncPatHi : Word
  /-- THRESHOLD (10 R30). -/
  threshold : Word
  /-- PKT_LEN (10 R31). -/
  pktLen : Word
  /-- LFSR_POLY (10 R32). -/
  lfsrPoly : Byte
  /-- LFSR_SEED (10 R33). -/
  lfsrSeed : Byte
  /-- RATE (10 R34). -/
  rate : Word
  /-- KP (10 R34). -/
  kp : Word
  /-- KI (10 R34). -/
  ki : Word
  /-- AGC_OMA (10 R34). -/
  agcOma : Word
  /-- NOLOCK (10 R34). -/
  nolock : Word
  /-- RAW and RAW_CUR (10 R35). -/
  raw : CBuf Cplx
  /-- IH and IH_CUR (10 R36). -/
  ih : CBuf Cplx
  /-- EH and EH_CUR (10 R37). -/
  eh : CBuf Word
  /-- PHASE (10 R38). -/
  phase : Word
  /-- INTEG (10 R39). -/
  integ : Word
  /-- AGC_P (10 R40). -/
  agcP : Word
  /-- GATE (10 R41). -/
  gate : Bool
  /-- PSTATE (10 R42). -/
  pstate : PState
  /-- CAPIDX (10 R42). -/
  capidx : Nat
  /-- PAYLOAD (10 R43), bit i is PAYLOAD[i]. -/
  payload : BitVec 8192
  /-- PKT_AVAIL (10 R44). -/
  pktAvail : Bool
  /-- LFSR (10 R49). -/
  lfsr : Byte
  /-- SAMPLE_COUNT (10 R50). -/
  sampleCount : BitVec 64
  /-- PACKET_COUNT (10 R50). -/
  packetCount : BitVec 32
  /-- PKT_SAMPLE_INDEX (10 R50). -/
  pktSampleIndex : BitVec 64
deriving DecidableEq, Repr

/-- What can happen on the ports at one clock edge (20 R60, R61; log entry 1). -/
inductive PortEvent where
  /-- The host presents this command word and the block takes it. -/
  | word (w : Word)
  /-- The edge has `rst_n = 0` (70 R310). -/
  | rstN
  /-- The host is ready for a response word (`rsp_ready = 1`). -/
  | rspReady
deriving DecidableEq, Repr

/-- The machine: the block's state and the words in transit on its two ports, which 10 R20 does not
count as state of the block (log entry 1). -/
structure State where
  /-- The state of the block. -/
  arch : Arch
  /-- The words taken of a command whose last word has not been taken (20 R62). -/
  taken : List Word
  /-- What the host will do on the ports, earliest first. -/
  cmdPort : List PortEvent
  /-- The response words sent and not yet taken by the host, earliest first (20 R63). -/
  rspPort : List Word
deriving DecidableEq, Repr

/-- Reasons to stop with a fault. There is none: every error of the block is a result code in a
response and leaves the machine running (60 R280). Safe: no step can answer a fault. -/
inductive Fault
deriving DecidableEq, Repr

/-- Reasons to have no meaning for an instruction. -/
inductive Refusal where
  /-- The instruction of this mnemonic has no meaning in the model. Raised by no arm of `exec`: every
  command is modelled. Safe. -/
  | notModelled (mnemonic : String)
deriving DecidableEq, Repr

/-- The reset values of 10 R55 (70 R311). -/
def Arch.reset : Arch where
  lifecycle := .config
  faultCause := 0
  sps := 0
  loopBw := 0
  loopDamp := 0
  agcAlpha := 0
  syncLen := 0
  syncPatLo := 0
  syncPatHi := 0
  threshold := 0
  pktLen := 0
  lfsrPoly := 0
  lfsrSeed := 0
  rate := 0
  kp := 0
  ki := 0
  agcOma := 0
  nolock := 0
  raw := { data := List.replicate Config.rawDepth ⟨0, 0⟩, cur := 0 }
  ih := { data := List.replicate Config.ihDepth ⟨0, 0⟩, cur := 0 }
  eh := { data := List.replicate Config.syncLenMax 0, cur := 0 }
  phase := 0
  integ := 0
  agcP := 0
  gate := false
  pstate := .scanning
  capidx := 0
  payload := 0
  pktAvail := false
  lfsr := 0
  sampleCount := 0
  packetCount := 0
  pktSampleIndex := 0

/-- The machine right after reset: the block's reset values, no words in transit (70 R312), and a
host that has not done anything yet (log entry 1). -/
def State.reset : State where
  arch := Arch.reset
  taken := []
  cmdPort := []
  rspPort := []

end Sys2Proof.Machine
end

