-- ==== Sys2Proof/Machine/Flags.lean ====
section
/-! DEFINITION. Result codes (60 R280), response headers (30 R81, R93, R94) and the packed status
registers (10 R46, R48). -/

namespace Sys2Proof.Machine

/-- The result codes (60 R280); 10 to 15 are never produced. -/
inductive ResultCode where
  | ok | illegalOpcode | reservedField | badState | faulted | indexRange | badCsr | badOperand
  | cfgInvalid | diverged
deriving DecidableEq, Repr

/-- The code's value (60 R280). -/
def rcValue : ResultCode → BitVec 4
  | .ok => 0#4
  | .illegalOpcode => 1#4
  | .reservedField => 2#4
  | .badState => 3#4
  | .faulted => 4#4
  | .indexRange => 5#4
  | .badCsr => 6#4
  | .badOperand => 7#4
  | .cfgInvalid => 8#4
  | .diverged => 9#4

/-- A one-bit field. -/
def bit1 (b : Bool) : BitVec 1 := BitVec.ofBool b

/-- A response header from its fields (30 R81), the most significant field first. -/
def mkRspHeader (rlen : BitVec 2) (opc : BitVec 8) (pkt bit valid : Bool) (rc : BitVec 4) : Word :=
  0#14 ++ (rlen ++ (opc ++ (0#1 ++ (bit1 pkt ++ (bit1 bit ++ (bit1 valid ++ rc))))))

/-- A successful response: the flags of 30 R93 and the data words of 30 R94. -/
structure Reply where
  valid : Bool := false
  bit : Bool := false
  pkt : Bool := false
  data : List Word := []
deriving DecidableEq, Repr

/-- The words of a successful response (30 R81, R93, R94). -/
def okWords (o : Opcode) (r : Reply) : List Word :=
  mkRspHeader (BitVec.ofNat 2 r.data.length) o.byte r.pkt r.bit r.valid (rcValue .ok) :: r.data

/-- The words of an error response: the code and the OPC of the command, no flags and no data words
(30 R93, R94; 60 R282). -/
def errorWords (opc : BitVec 8) (rc : ResultCode) : List Word :=
  [mkRspHeader 0#2 opc false false false (rcValue rc)]

/-- The value of the field STATE (10 R21). -/
def lifecycleValue : Lifecycle → BitVec 2
  | .config => 0#2
  | .run => 1#2
  | .fault => 2#2

/-- The value of the field PSTATE (10 R42). -/
def pstateValue : PState → BitVec 1
  | .scanning => 0#1
  | .capturing => 1#1

/-- STATUS (10 R46). -/
def statusWord (a : Arch) : Word :=
  0#20 ++ (a.faultCause ++ (0#3 ++ (bit1 a.pktAvail ++ (pstateValue a.pstate ++
    (bit1 a.gate ++ lifecycleValue a.lifecycle)))))

/-- CURSORS (10 R48). -/
def cursorsWord (a : Arch) : Word :=
  0#10 ++ (BitVec.ofNat 6 a.eh.cur ++ (0#6 ++ (BitVec.ofNat 2 a.ih.cur ++
    (0#5 ++ BitVec.ofNat 3 a.raw.cur))))

end Sys2Proof.Machine
end

