-- ==== Sys2Proof/Machine/Operands.lean ====
section
/-! DEFINITION. The operand forms of a command: immediates (30 R86), register numbers (10 R45), buffer
instances (30 R85), complex samples (00 R11). -/

namespace Sys2Proof.Machine

/-- `sext_16(IMM)`, the signed offset form (30 R86). -/
def s16 (imm : BitVec 16) : Int := imm.toInt
/-- `zext_16(IMM)`, the unsigned offset or index form (30 R86). -/
def u16 (imm : BitVec 16) : Nat := imm.toNat
/-- `IMM[0]`, the bit form (30 R86). -/
def bitOperand (imm : BitVec 16) : Bool := imm.getLsbD 0

/-- A complex operand: D0 = re, D1 = im (30 R82). -/
def sampleOperand (d0 d1 : Word) : Cplx := ⟨d0, d1⟩

/-- The assigned registers of the map (10 R45). -/
inductive Csr where
  | id | version | status | params | pktLenMax
  | sps | loopBw | loopDamp | agcAlpha | syncLen | syncPatLo | syncPatHi | threshold | pktLen
  | lfsrPoly | lfsrSeed
  | rate | kp | ki | agcOma | nolock
  | phase | integ | agcP | lfsrState | capidx | cursors | sampleCountLo | sampleCountHi
  | packetCount | pktSampleIndexLo | pktSampleIndexHi
deriving DecidableEq, Repr

/-- The CSR number of a register (10 R45). -/
def csrNumber : Csr → BitVec 16
  | .id => 0x000#16
  | .version => 0x001#16
  | .status => 0x002#16
  | .params => 0x003#16
  | .pktLenMax => 0x004#16
  | .sps => 0x010#16
  | .loopBw => 0x011#16
  | .loopDamp => 0x012#16
  | .agcAlpha => 0x013#16
  | .syncLen => 0x014#16
  | .syncPatLo => 0x015#16
  | .syncPatHi => 0x016#16
  | .threshold => 0x017#16
  | .pktLen => 0x018#16
  | .lfsrPoly => 0x019#16
  | .lfsrSeed => 0x01A#16
  | .rate => 0x020#16
  | .kp => 0x021#16
  | .ki => 0x022#16
  | .agcOma => 0x023#16
  | .nolock => 0x024#16
  | .phase => 0x030#16
  | .integ => 0x031#16
  | .agcP => 0x032#16
  | .lfsrState => 0x033#16
  | .capidx => 0x034#16
  | .cursors => 0x035#16
  | .sampleCountLo => 0x036#16
  | .sampleCountHi => 0x037#16
  | .packetCount => 0x038#16
  | .pktSampleIndexLo => 0x039#16
  | .pktSampleIndexHi => 0x03A#16

/-- Every assigned register, in the order of 10 R45. -/
def allCsrs : List Csr :=
  [.id, .version, .status, .params, .pktLenMax,
   .sps, .loopBw, .loopDamp, .agcAlpha, .syncLen, .syncPatLo, .syncPatHi, .threshold, .pktLen,
   .lfsrPoly, .lfsrSeed,
   .rate, .kp, .ki, .agcOma, .nolock,
   .phase, .integ, .agcP, .lfsrState, .capidx, .cursors, .sampleCountLo, .sampleCountHi,
   .packetCount, .pktSampleIndexLo, .pktSampleIndexHi]

/-- The register a CSR number names; every other number is unassigned (10 R45). -/
def csrOf (n : BitVec 16) : Option Csr := allCsrs.find? fun c => csrNumber c == n

/-- The configuration registers, RW in CONFIG; every other register is RO (10 R45). -/
def csrWritable : Csr → Bool
  | .sps | .loopBw | .loopDamp | .agcAlpha | .syncLen | .syncPatLo | .syncPatHi | .threshold
  | .pktLen | .lfsrPoly | .lfsrSeed => true
  | .id | .version | .status | .params | .pktLenMax | .rate | .kp | .ki | .agcOma | .nolock
  | .phase | .integ | .agcP | .lfsrState | .capidx | .cursors | .sampleCountLo | .sampleCountHi
  | .packetCount | .pktSampleIndexLo | .pktSampleIndexHi => false

/-- The buffer instances SEL names (30 R85). -/
inductive Instance where
  | raw
  | ih
  | eh
deriving DecidableEq, Repr

/-- SEL 0, 1 and 2; 3 to 15 name no instance (30 R85). -/
def instanceOf (sel : BitVec 4) : Option Instance :=
  if sel = 0#4 then some .raw
  else if sel = 1#4 then some .ih
  else if sel = 2#4 then some .eh
  else none

end Sys2Proof.Machine
end

