-- ==== Sys2Proof/Machine/Ops.lean ====
section
/-! DEFINITION. The named operations every command is built from: responses, the class check, the one
trap entry and the return from it, and the circular-buffer primitive (41 R140 to R144). -/

namespace Sys2Proof.Machine

/-! ## Logical sizes -/

/-- N, the syncword length (10 R54). -/
def Arch.syncN (a : Arch) : Nat := a.syncLen.toNat
/-- L, the payload length (10 R54). -/
def Arch.pktL (a : Arch) : Nat := a.pktLen.toNat
/-- SYNC_PAT = {SYNC_PAT_HI, SYNC_PAT_LO} (10 R29). -/
def Arch.syncPat (a : Arch) : BitVec 64 := a.syncPatHi ++ a.syncPatLo

/-! ## The trap entry and the return from it -/

/-- The trap entry of a divergence (60 R284, 47 R221): STATE becomes FAULT and FAULT_CAUSE the code
DIVERGED. Nothing is saved and the effects made before it stay. -/
def Arch.takeDivergence (a : Arch) : Arch :=
  { a with lifecycle := .fault, faultCause := rcValue .diverged }

/-- `apply_reset` (40 R121, 70 R311), the only way out of FAULT (60 R286): nothing survives it. -/
def Arch.applyReset (_ : Arch) : Arch := Arch.reset

/-! ## Responses and outcomes -/

/-- Put response words behind those not yet taken (20 R63). -/
def State.send (s : State) (ws : List Word) : State := { s with rspPort := s.rspPort ++ ws }

/-- Replace the state of the block. -/
def State.withArch (s : State) (a : Arch) : State := { s with arch := a }

/-- How a command ends. -/
inductive CmdResult where
  /-- `respond`: the command completed, with this state and response. -/
  | ok (a : Arch) (r : Reply)
  /-- `raise RC`: an error that changes no state (60 R283). -/
  | raise (rc : ResultCode)
  /-- `diverge()`: the step stopped in this state, and the trap is taken (47 R221). -/
  | diverge (a : Arch)
deriving DecidableEq, Repr

/-- Every command ends in a next state with its response sent (20 R63): with its effects, or
unchanged (60 R283), or with the trap entry taken (60 R284). -/
def finish (o : Opcode) (s : State) : CmdResult → Host.Outcome State Fault Refusal
  | .ok a r => .next ((s.withArch a).send (okWords o r))
  | .raise rc => .next (s.send (errorWords o.byte rc))
  | .diverge a => .next ((s.withArch a.takeDivergence).send (errorWords o.byte .diverged))

/-! ## The class check -/

/-- The command classes (30 R89). START, of class C, has a row of its own there. -/
inductive CmdClass where
  /-- Class C, NOP and RESET: runs in every state. -/
  | control
  /-- Class C, START: runs in CONFIG only. -/
  | start
  /-- Class A, CSR_RD: runs in every state. -/
  | access
  /-- Class W, CSR_WR: runs in CONFIG only. -/
  | write
  /-- Class R: inspects, in RUN and FAULT. -/
  | inspect
  /-- Class M: mutates, in RUN only. -/
  | mutate
deriving DecidableEq, Repr

/-- The class of an operation (30 R89). -/
def cmdClass : Opcode → CmdClass
  | .nop | .reset => .control
  | .start => .start
  | .csrRd => .access
  | .csrWr => .write
  | .cbRds | .cbRdu | .pcSin | .pcCos | .pcPhasor | .interp | .ted | .pktRdw => .inspect
  | .pcTick | .pcAdv | .piUpdate | .agcTick | .ssTick | .corrTick | .corrReset | .pktTick
  | .lfsrNext | .lfsrSeed | .descramble | .rxTick => .mutate

/-- The error a class meets in a lifecycle state, or none where the command runs (30 R89). -/
def classError : CmdClass → Lifecycle → Option ResultCode
  | .control, _ => none
  | .start, .config => none
  | .start, .run => some .badState
  | .start, .fault => some .badState
  | .access, _ => none
  | .write, .config => none
  | .write, .run => some .badState
  | .write, .fault => some .badState
  | .inspect, .config => some .badState
  | .inspect, .run => none
  | .inspect, .fault => none
  | .mutate, .config => some .badState
  | .mutate, .run => none
  | .mutate, .fault => some .faulted

/-- Check the class against STATE before the command's own work on the state (60 R281). -/
def gated (c : CmdClass) (a : Arch) (body : Arch → CmdResult) : CmdResult :=
  match classError c a.lifecycle with
  | some rc => .raise rc
  | none => body a

/-- Run a command: the class check, then its work, then its response. -/
def runCmd (o : Opcode) (s : State) (body : Arch → CmdResult) : Host.Outcome State Fault Refusal :=
  finish o s (gated (cmdClass o) s.arch body)

/-! ## The circular-buffer primitive -/

/-- `cb_push` on a buffer of capacity `n` (41 R141). -/
def CBuf.push {α : Type} (n : Nat) (b : CBuf α) (v : α) : CBuf α :=
  { data := b.data.set b.cur v, cur := (b.cur + 1) % n }

/-- `cb_slot`, the slot a signed offset names (41 R144). -/
def CBuf.slot {α : Type} (n : Nat) (b : CBuf α) (k : Int) : Nat :=
  (((b.cur : Int) - 1 + k) % (n : Int)).toNat

/-- The element in a slot. A slot outside the array reads the default, zero, which does not arise
(41 R145; log entry 8). -/
def CBuf.slotVal {α : Type} [Inhabited α] (b : CBuf α) (i : Nat) : α := b.data.getD i default

/-- The element a signed offset names, for an offset in range (41 R142). -/
def CBuf.getS {α : Type} [Inhabited α] (n : Nat) (b : CBuf α) (k : Int) : α := b.slotVal (b.slot n k)

/-- The element an unsigned offset names, for an offset in range (41 R143). -/
def CBuf.getU {α : Type} [Inhabited α] (n : Nat) (b : CBuf α) (j : Nat) : α := b.slotVal ((b.cur + j) % n)

/-- `cb_rds`: none stands for INDEX_RANGE, outside -N ≤ k < N (41 R142). -/
def CBuf.rds {α : Type} [Inhabited α] (n : Nat) (b : CBuf α) (k : Int) : Option α :=
  if -(n : Int) ≤ k ∧ k < (n : Int) then some (b.getS n k) else none

/-- `cb_rdu`: none stands for INDEX_RANGE, outside 0 ≤ j ≤ N (41 R143). -/
def CBuf.rdu {α : Type} [Inhabited α] (n : Nat) (b : CBuf α) (j : Nat) : Option α :=
  if j ≤ n then some (b.getU n j) else none

/-! ## Bits of the payload -/

/-- Write one bit of a bit array; an index outside it changes nothing (log entry 8). -/
def setBit {w : Nat} (v : BitVec w) (i : Nat) (b : Bool) : BitVec w :=
  (v &&& ~~~(1#w <<< i)) ||| (if b then 1#w <<< i else 0#w)

end Sys2Proof.Machine
end

