-- ==== Sys2Proof/Machine/Agc.lean ====
section
/-! DEFINITION. The automatic gain control (45_agc.md): AGC_TICK. -/

namespace Sys2Proof.Machine

/-- The squared magnitude of a sample (45 R200). -/
def samplePower (x : Cplx) : Word := fadd (fmul x.re x.re) (fmul x.im x.im)

/-- `agc_step(x)` (45 R200): the new state and the output. Zero and non-finite power give the IEEE
results and signal nothing (45 R202). -/
def Arch.agcStep (a : Arch) (x : Cplx) : Arch × Cplx :=
  let p := fadd (fmul a.agcAlpha (samplePower x)) (fmul a.agcOma a.agcP)
  let r := fsqrt p
  ({ a with agcP := p }, ⟨fdiv x.re r, fdiv x.im r⟩)

/-- AGC_TICK (45 R201). -/
def execAgcTick (re im : Word) (s : State) : Host.Outcome State Fault Refusal :=
  runCmd .agcTick s fun a =>
    .ok (a.agcStep (sampleOperand re im)).1
      { data := [(a.agcStep (sampleOperand re im)).2.re,
                 (a.agcStep (sampleOperand re im)).2.im] }

end Sys2Proof.Machine
end

