-- ==== Sys2Proof/Machine/CircularBuffer.lean ====
section
/-! DEFINITION. Buffer inspection (41_circular_buffer.md): CB_RDS, CB_RDU. -/

namespace Sys2Proof.Machine

/-- The response data of a complex element. -/
def cplxData (v : Cplx) : List Word := [v.re, v.im]
/-- The response data of a count: R0 is the count, R1 is 0 (41 R146). -/
def countData (v : Word) : List Word := [v, 0]

/-- The element of an instance at a signed offset, as response data; none is INDEX_RANGE (41 R146). -/
def readSigned (a : Arch) (k : Int) : Instance → Option (List Word)
  | .raw => (a.raw.rds Config.rawDepth k).map cplxData
  | .ih => (a.ih.rds Config.ihDepth k).map cplxData
  | .eh => (a.eh.rds a.syncN k).map countData

/-- The element of an instance at an unsigned offset, as response data; none is INDEX_RANGE
(41 R147). -/
def readUnsigned (a : Arch) (j : Nat) : Instance → Option (List Word)
  | .raw => (a.raw.rdu Config.rawDepth j).map cplxData
  | .ih => (a.ih.rdu Config.ihDepth j).map cplxData
  | .eh => (a.eh.rdu a.syncN j).map countData

/-- A buffer read: SEL is checked before the offset (60 R281). -/
def bufferRead (a : Arch) (sel : BitVec 4) (read : Instance → Option (List Word)) : CmdResult :=
  match instanceOf sel with
  | none => .raise .badOperand
  | some b =>
    match read b with
    | none => .raise .indexRange
    | some ws => .ok a { data := ws }

/-- CB_RDS (41 R146). -/
def execCbRds (sel : BitVec 4) (k : BitVec 16) (s : State) : Host.Outcome State Fault Refusal :=
  runCmd .cbRds s fun a => bufferRead a sel (readSigned a (s16 k))

/-- CB_RDU (41 R147). -/
def execCbRdu (sel : BitVec 4) (j : BitVec 16) (s : State) : Host.Outcome State Fault Refusal :=
  runCmd .cbRdu s fun a => bufferRead a sel (readUnsigned a (u16 j))

end Sys2Proof.Machine
end

