-- ==== Sys2Proof/Machine/Control.lean ====
section
/-! DEFINITION. The control commands (40_control.md): NOP, RESET, START, CSR_RD, CSR_WR. -/

namespace Sys2Proof.Machine

/-- NOP (40 R120). -/
def execNop (s : State) : Host.Outcome State Fault Refusal :=
  runCmd .nop s fun a => .ok a {}

/-- RESET (40 R121): the response is sent after the reset; responses not yet taken stay (70 R312). -/
def execReset (s : State) : Host.Outcome State Fault Refusal :=
  runCmd .reset s fun a => .ok a.applyReset {}

/-- The legality conditions of 40 R122 on the configuration registers (10 R24 to R31). -/
def configLegal (a : Arch) : Bool :=
  finite a.sps && fge a.sps f2 &&
  finite a.loopBw && fge a.loopBw f0 &&
  finite a.loopDamp && fgt a.loopDamp f0 &&
  fgt a.agcAlpha f0 && flt a.agcAlpha f1 &&
  decide (1 ≤ a.syncLen.toNat) && decide (a.syncLen.toNat ≤ Config.syncLenMax) &&
  decide (a.threshold.toNat ≤ Config.thresholdMax) &&
  decide (1 ≤ a.pktLen.toNat) && decide (a.pktLen.toNat ≤ Config.pktLenMax)

/-- `gain_design` (43 R181): the gains (kp, ki), in the spec's order of operations. -/
def gainDesign (bw d sps : Word) : Word × Word :=
  let d4 := fmul f4 d
  let q := fadd d (fdiv f1 d4)
  (fdiv (fmul (fdiv d4 q) bw) sps,
   fdiv (fmul (fdiv f4 (fmul q q)) (fmul bw bw)) sps)

/-- The gains START designs from the configuration (40 R122). -/
def Arch.designedGains (a : Arch) : Word × Word := gainDesign a.loopBw a.loopDamp a.sps

/-- START's whole validation (40 R122). -/
def startLegal (a : Arch) : Bool :=
  configLegal a && finite a.designedGains.1 && finite a.designedGains.2

/-- The derived constants (40 R123). -/
def Arch.deriveConstants (a : Arch) : Arch :=
  { a with
    rate := fdiv Config.fourPi a.sps
    kp := a.designedGains.1
    ki := a.designedGains.2
    agcOma := fsub f1 a.agcAlpha
    nolock := a.threshold + 1 }

/-- EH at construction: NOLOCK in the slots 0 to N-1 and 0 above (10 R55). -/
def constructedEh (n : Nat) (nolock : Word) : List Word :=
  (List.range Config.syncLenMax).map fun i => if i < n then nolock else 0

/-- The construction values (40 R124, 10 R55), after the derived constants are set. -/
def Arch.construct (a : Arch) : Arch :=
  { a with
    lifecycle := .run
    faultCause := 0
    raw := { data := List.replicate Config.rawDepth ⟨0, 0⟩, cur := 0 }
    ih := { data := List.replicate Config.ihDepth ⟨0, 0⟩, cur := 0 }
    eh := { data := constructedEh a.syncN a.nolock, cur := 0 }
    phase := 0
    integ := 0
    agcP := f1
    gate := false
    pstate := .scanning
    capidx := 0
    payload := 0
    pktAvail := false
    lfsr := a.lfsrSeed
    sampleCount := 0
    packetCount := 0
    pktSampleIndex := 0 }

/-- START (40 R122 to R124). -/
def execStart (s : State) : Host.Outcome State Fault Refusal :=
  runCmd .start s fun a =>
    if startLegal a then .ok a.deriveConstants.construct {} else .raise .cfgInvalid

/-- The value a register reads (10 R45 to R50, R53). -/
def csrRead (a : Arch) : Csr → Word
  | .id => Config.idValue
  | .version => Config.versionValue
  | .status => statusWord a
  | .params => Config.paramsValue
  | .pktLenMax => BitVec.ofNat 32 Config.pktLenMax
  | .sps => a.sps
  | .loopBw => a.loopBw
  | .loopDamp => a.loopDamp
  | .agcAlpha => a.agcAlpha
  | .syncLen => a.syncLen
  | .syncPatLo => a.syncPatLo
  | .syncPatHi => a.syncPatHi
  | .threshold => a.threshold
  | .pktLen => a.pktLen
  | .lfsrPoly => a.lfsrPoly.setWidth 32
  | .lfsrSeed => a.lfsrSeed.setWidth 32
  | .rate => a.rate
  | .kp => a.kp
  | .ki => a.ki
  | .agcOma => a.agcOma
  | .nolock => a.nolock
  | .phase => a.phase
  | .integ => a.integ
  | .agcP => a.agcP
  | .lfsrState => a.lfsr.setWidth 32
  | .capidx => BitVec.ofNat 32 a.capidx
  | .cursors => cursorsWord a
  | .sampleCountLo => a.sampleCount.extractLsb' 0 32
  | .sampleCountHi => a.sampleCount.extractLsb' 32 32
  | .packetCount => a.packetCount
  | .pktSampleIndexLo => a.pktSampleIndex.extractLsb' 0 32
  | .pktSampleIndexHi => a.pktSampleIndex.extractLsb' 32 32

/-- CSR_RD (40 R125): it runs in every state, so BAD_CSR is its only error. -/
def execCsrRd (n : BitVec 16) (s : State) : Host.Outcome State Fault Refusal :=
  runCmd .csrRd s fun a =>
    match csrOf n with
    | none => .raise .badCsr
    | some c => .ok a { data := [csrRead a c] }

/-- The write of a configuration register: as written, but for the 8-bit registers, which keep
D0[7:0] (40 R126, 10 R32). A register that is not RW is not changed. -/
def csrStore (a : Arch) (c : Csr) (d : Word) : Arch :=
  match c with
  | .sps => { a with sps := d }
  | .loopBw => { a with loopBw := d }
  | .loopDamp => { a with loopDamp := d }
  | .agcAlpha => { a with agcAlpha := d }
  | .syncLen => { a with syncLen := d }
  | .syncPatLo => { a with syncPatLo := d }
  | .syncPatHi => { a with syncPatHi := d }
  | .threshold => { a with threshold := d }
  | .pktLen => { a with pktLen := d }
  | .lfsrPoly => { a with lfsrPoly := d.extractLsb' 0 8 }
  | .lfsrSeed => { a with lfsrSeed := d.extractLsb' 0 8 }
  | .id | .version | .status | .params | .pktLenMax | .rate | .kp | .ki | .agcOma | .nolock
  | .phase | .integ | .agcP | .lfsrState | .capidx | .cursors | .sampleCountLo | .sampleCountHi
  | .packetCount | .pktSampleIndexLo | .pktSampleIndexHi => a

/-- The configuration register a number names: none for an unassigned or read-only number (40 R126). -/
def writableCsr (n : BitVec 16) : Option Csr := (csrOf n).filter csrWritable

/-- CSR_WR (40 R126): BAD_CSR is checked before the class (60 R281). -/
def execCsrWr (n : BitVec 16) (d : Word) (s : State) : Host.Outcome State Fault Refusal :=
  match writableCsr n with
  | none => finish .csrWr s (.raise .badCsr)
  | some c => runCmd .csrWr s fun a => .ok (csrStore a c d) {}

end Sys2Proof.Machine
end

