-- ==== Sys2Proof/Machine/GardnerTed.lean ====
section
/-! DEFINITION. The Gardner timing-error estimator (46_gardner_ted.md): TED. -/

namespace Sys2Proof.Machine

/-- The timing error of an early, an on-time and a late sample (46 R210). -/
def timingError (early onTime late : Cplx) : Word :=
  fadd (fmul onTime.re (fsub early.re late.re)) (fmul onTime.im (fsub early.im late.im))

/-- `gardner()` on an interpolated history, oldest sample first (46 R210). -/
def gardner (ih : CBuf Cplx) : Word :=
  timingError (ih.getU Config.ihDepth 0) (ih.getU Config.ihDepth 1) (ih.getU Config.ihDepth 2)

/-- TED (46 R211). -/
def execTed (s : State) : Host.Outcome State Fault Refusal :=
  runCmd .ted s fun a => .ok a { data := [gardner a.ih] }

end Sys2Proof.Machine
end

