-- ==== Sys2Proof/Machine/Interpolator.lean ====
section
/-! DEFINITION. The fractional-delay interpolator (44_interpolator.md): INTERP. -/

namespace Sys2Proof.Machine

/-- The weights of the four taps. -/
structure Weights where
  wA : Word
  wB : Word
  wC : Word
  wD : Word
deriving DecidableEq, Repr

/-- The cubic Lagrange weights at `mu`, in the spec's order of operations (44 R191). -/
def lagrangeWeights (mu : Word) : Weights :=
  let mm1 := fsub mu f1
  let mm2 := fsub mu f2
  let mp1 := fadd mu f1
  { wA := fdiv (fmul (fmul mu mm1) mm2) fNeg6
    wB := fdiv (fmul (fmul mp1 mm1) mm2) f2
    wC := fdiv (fmul (fmul mp1 mu) mm2) fNeg2
    wD := fdiv (fmul (fmul mp1 mu) mm1) f6 }

/-- The weighted sum of one component of the taps, left to right (44 R192). -/
def weightedSum (w : Weights) (a b c d : Word) : Word :=
  fadd (fadd (fadd (fmul w.wA a) (fmul w.wB b)) (fmul w.wC c)) (fmul w.wD d)

/-- `interp(mu)` on a raw history (44 R190 to R192): the taps are the four newest samples. -/
def interpolate (raw : CBuf Cplx) (mu : Word) : Cplx :=
  let w := lagrangeWeights mu
  let tA := raw.getS Config.rawDepth (-3)
  let tB := raw.getS Config.rawDepth (-2)
  let tC := raw.getS Config.rawDepth (-1)
  let tD := raw.getS Config.rawDepth 0
  ⟨weightedSum w tA.re tB.re tC.re tD.re, weightedSum w tA.im tB.im tC.im tD.im⟩

/-- The range check of INTERP's operand: mu in [0, 1) (44 R193). -/
def muLegal (mu : Word) : Bool := fge mu f0 && flt mu f1

/-- INTERP (44 R193). -/
def execInterp (mu : Word) (s : State) : Host.Outcome State Fault Refusal :=
  runCmd .interp s fun a =>
    if muLegal mu then
      .ok a { data := [(interpolate a.raw mu).re, (interpolate a.raw mu).im] }
    else .raise .badOperand

end Sys2Proof.Machine
end

