-- ==== Sys2Proof/Machine/PhaseClock.lean ====
section
/-! DEFINITION. The phase clock (42_phase_clock.md): PC_TICK, PC_ADV, PC_SIN, PC_COS, PC_PHASOR. -/

namespace Sys2Proof.Machine

/-- `advance_by(delta)` (42 R160): the new state and the overrun, if one is reported. -/
def Arch.advanceBy (a : Arch) (delta : Word) : Arch × Option Word :=
  let p := fadd a.phase delta
  if fge p Config.tau then
    ({ a with phase := fsub p Config.tau }, some (fsub p Config.tau))
  else ({ a with phase := p }, none)

/-- `tick()` (42 R161). -/
def Arch.tick (a : Arch) : Arch × Option Word := a.advanceBy a.rate

/-- The response to an optional overrun (42 R162). -/
def overrunReply : Option Word → Reply
  | some v => { valid := true, data := [v] }
  | none => { data := [0] }

/-- `SINCOS_SIN` (42 R164): the values the spec fixes, and the open parameter elsewhere. -/
def sinOf (p : Word) : Word :=
  if p = f0 then f0 else if finite p then Config.sincosSin p else canonicalNaN

/-- `SINCOS_COS` (42 R164). -/
def cosOf (p : Word) : Word :=
  if p = f0 then f1 else if finite p then Config.sincosCos p else canonicalNaN

/-- PC_TICK (42 R162). -/
def execPcTick (s : State) : Host.Outcome State Fault Refusal :=
  runCmd .pcTick s fun a => .ok a.tick.1 (overrunReply a.tick.2)

/-- PC_ADV (42 R163). -/
def execPcAdv (delta : Word) (s : State) : Host.Outcome State Fault Refusal :=
  runCmd .pcAdv s fun a =>
    .ok (a.advanceBy delta).1 (overrunReply (a.advanceBy delta).2)

/-- PC_SIN (42 R165). -/
def execPcSin (s : State) : Host.Outcome State Fault Refusal :=
  runCmd .pcSin s fun a => .ok a { data := [sinOf a.phase] }

/-- PC_COS (42 R166). -/
def execPcCos (s : State) : Host.Outcome State Fault Refusal :=
  runCmd .pcCos s fun a => .ok a { data := [cosOf a.phase] }

/-- PC_PHASOR (42 R167): cos + i·sin, real part first. -/
def execPcPhasor (s : State) : Host.Outcome State Fault Refusal :=
  runCmd .pcPhasor s fun a =>
    .ok a { data := [cosOf a.phase, sinOf a.phase] }

end Sys2Proof.Machine
end

