-- ==== Sys2Proof/Machine/PiLoop.lean ====
section
/-! DEFINITION. The discrete PI loop filter (43_pi_loop_filter.md): PI_UPDATE. -/

namespace Sys2Proof.Machine

/-- The integrator after an update with error `e` (43 R180). It is not bounded (43 R182). -/
def piIntegrator (ki integ e : Word) : Word := fadd integ (fmul ki e)

/-- The output of an update, from the integrator after it (43 R180). -/
def piOutput (kp integ e : Word) : Word := fadd integ (fmul kp e)

/-- `pi_update(e)` (43 R180): the new state and the returned correction. -/
def Arch.piUpdate (a : Arch) (e : Word) : Arch × Word :=
  let integ := piIntegrator a.ki a.integ e
  ({ a with integ := integ }, piOutput a.kp integ e)

/-- PI_UPDATE (43 R183). -/
def execPiUpdate (e : Word) (s : State) : Host.Outcome State Fault Refusal :=
  runCmd .piUpdate s fun a =>
    .ok (a.piUpdate e).1 { data := [(a.piUpdate e).2] }

end Sys2Proof.Machine
end

