-- ==== Sys2Proof/Machine/SymbolSync.lean ====
section
/-! DEFINITION. The symbol synchronizer (47_symbol_synchronizer.md): SS_TICK. -/

namespace Sys2Proof.Machine

/-- How a synchronizer step ends (47 R220). -/
inductive SyncOut where
  | nothing
  | symbol (y : Cplx)
  | diverged
deriving DecidableEq, Repr

/-- Push a raw sample (47 R220 step 1). -/
def Arch.pushRaw (a : Arch) (x : Cplx) : Arch := { a with raw := a.raw.push Config.rawDepth x }

/-- Push an interpolated sample (47 R220 step 3). -/
def Arch.pushIh (a : Arch) (y : Cplx) : Arch := { a with ih := a.ih.push Config.ihDepth y }

/-- Toggle the output gate, and emit the sample when the toggle leaves it 0 (47 R220 step 5, R222). -/
def Arch.toggleGate (a : Arch) (y : Cplx) : Arch × SyncOut :=
  ({ a with gate := !a.gate }, if a.gate then .symbol y else .nothing)

/-- Steps 3 to 5 of `ss_step`, from the overrun of the tick (47 R220): interpolate, estimate the
timing error, filter it, apply the correction. -/
def Arch.syncCorrect (a : Arch) (overrun : Word) : Arch × SyncOut :=
  let y := interpolate a.raw (fdiv overrun Config.tau)
  let a1 := a.pushIh y
  let pi := a1.piUpdate (gardner a1.ih)
  let adv := pi.1.advanceBy pi.2
  match adv.2 with
  | some _ => (adv.1, .diverged)
  | none => adv.1.toggleGate y

/-- `ss_step(x)` (47 R220). Where it diverges, the state is the one the correction left, before the
trap entry (47 R221). -/
def Arch.ssStep (a : Arch) (x : Cplx) : Arch × SyncOut :=
  let t := (a.pushRaw x).tick
  match t.2 with
  | none => (t.1, .nothing)
  | some v => t.1.syncCorrect v

/-- SAMPLE_COUNT + 1 modulo 2^64 (10 R50). -/
def Arch.countSample (a : Arch) : Arch := { a with sampleCount := a.sampleCount + 1 }

/-- The end of SS_TICK after its step (47 R223). -/
def ssTickResult : Arch × SyncOut → CmdResult
  | (a, .nothing) => .ok a { data := [0, 0] }
  | (a, .symbol y) => .ok a { valid := true, data := [y.re, y.im] }
  | (a, .diverged) => .diverge a

/-- SS_TICK (47 R223). -/
def execSsTick (re im : Word) (s : State) : Host.Outcome State Fault Refusal :=
  runCmd .ssTick s fun a =>
    ssTickResult (a.countSample.ssStep (sampleOperand re im))

end Sys2Proof.Machine
end

