-- ==== Sys2Proof/Machine/Syncword.lean ====
section
/-! DEFINITION. The syncword correlator and the packetizer (48_syncword.md): CORR_TICK, CORR_RESET,
PKT_TICK, PKT_RDW. -/

namespace Sys2Proof.Machine

/-- `pattern[idx]` (48 R240). -/
def Arch.pattern (a : Arch) (idx : Nat) : Bool := a.syncPat.getLsbD idx

/-- Add 1 to the count at the signed offset -idx (48 R241). -/
def bumpCount (n : Nat) (eh : CBuf Word) (idx : Nat) : CBuf Word :=
  { eh with data := eh.data.set (eh.slot n (-(idx : Int))) (eh.getS n (-(idx : Int)) + 1) }

/-- One pattern position of `corr_step` (48 R241 step 2). -/
def corrPosition (n : Nat) (pat : Nat → Bool) (s : Bool) (eh : CBuf Word) (idx : Nat) : CBuf Word :=
  if pat idx != s then bumpCount n eh idx else eh

/-- EH after `corr_step(s)` (48 R241 steps 1 and 2). -/
def corrPush (n : Nat) (pat : Nat → Bool) (s : Bool) (eh : CBuf Word) : CBuf Word :=
  (List.range n).foldl (corrPosition n pat s) (eh.push n 0)

/-- The oldest entry's count is within the threshold (48 R241 step 3). -/
def Arch.locked (a : Arch) : Bool := decide ((a.eh.getU a.syncN 0).toNat ≤ a.threshold.toNat)

/-- `corr_step(s)` (48 R241): the new state and the lock result. -/
def Arch.corrStep (a : Arch) (s : Bool) : Arch × Bool :=
  let a1 := { a with eh := corrPush a.syncN a.pattern s a.eh }
  (a1, a1.locked)

/-- `corr_reset()` (48 R242): NOLOCK in the slots 0 to N-1, the cursor as it was; the result is the
test on the counts it leaves. -/
def Arch.corrReset (a : Arch) : Arch × Bool :=
  let a1 := { a with eh := { a.eh with
    data := a.eh.data.mapIdx fun i c => if i < a.syncN then a.nolock else c } }
  (a1, a1.locked)

/-- `pkt_step` in Scanning (48 R245): on a detection the correlator is reset and the capture begins
with the next symbol. -/
def Arch.pktScan (a : Arch) (s : Bool) : Arch :=
  let c := a.corrStep s
  if c.2 then { c.1.corrReset.1 with pstate := .capturing, capidx := 0, pktAvail := false } else c.1

/-- `pkt_step` in Capturing (48 R245): the new state and whether a packet was emitted. -/
def Arch.pktCapture (a : Arch) (s : Bool) : Arch × Bool :=
  let a1 := { a with payload := setBit a.payload a.capidx s, capidx := a.capidx + 1 }
  if a1.capidx = a1.pktL then
    ({ a1 with pstate := .scanning, capidx := 0, pktAvail := true,
               packetCount := a1.packetCount + 1 }, true)
  else (a1, false)

/-- `pkt_step(s)` (48 R245): the new state and whether a packet was emitted. -/
def Arch.pktStep (a : Arch) (s : Bool) : Arch × Bool :=
  match a.pstate with
  | .scanning => (a.pktScan s, false)
  | .capturing => a.pktCapture s

/-- CORR_TICK (48 R243). -/
def execCorrTick (imm : BitVec 16) (s : State) : Host.Outcome State Fault Refusal :=
  runCmd .corrTick s fun a =>
    .ok (a.corrStep (bitOperand imm)).1 { bit := (a.corrStep (bitOperand imm)).2 }

/-- CORR_RESET (48 R244). -/
def execCorrReset (s : State) : Host.Outcome State Fault Refusal :=
  runCmd .corrReset s fun a => .ok a.corrReset.1 { bit := a.corrReset.2 }

/-- PKT_TICK (48 R246). -/
def execPktTick (imm : BitVec 16) (s : State) : Host.Outcome State Fault Refusal :=
  runCmd .pktTick s fun a =>
    .ok (a.pktStep (bitOperand imm)).1 { pkt := (a.pktStep (bitOperand imm)).2 }

/-- How many words the payload has: ceil(L / 32) (48 R248). -/
def payloadWords (l : Nat) : Nat := (l + 31) / 32

/-- Word `w` of the payload: its bit b is PAYLOAD[32w + b], and 0 at the positions L and above
(48 R248). -/
def payloadWord (payload : BitVec 8192) (l w : Nat) : Word :=
  (List.range 32).foldl
    (fun v b => if decide (32 * w + b < l) && payload.getLsbD (32 * w + b) then v ||| 1#32 <<< b else v)
    0#32

/-- PKT_RDW (48 R248). -/
def execPktRdw (w : BitVec 16) (s : State) : Host.Outcome State Fault Refusal :=
  runCmd .pktRdw s fun a =>
    if payloadWords a.pktL ≤ u16 w then .raise .indexRange
    else .ok a { data := [payloadWord a.payload a.pktL (u16 w)] }

end Sys2Proof.Machine
end

