-- ==== Sys2Proof/Machine/Descrambler.lean ====
section
/-! DEFINITION. The descrambler, the slicer and the receive chain (49_descrambler_rx.md): LFSR_NEXT,
LFSR_SEED, DESCRAMBLE, RX_TICK. -/

namespace Sys2Proof.Machine

/-- `parity(v)`: the number of 1 bits modulo 2 (00 R9). -/
def parity (v : Byte) : Bool := (List.range 8).foldl (fun p i => p ^^ v.getLsbD i) false

/-- The descrambler state after one step: shifted right, the parity of the tapped bits at the top
(49 R260). -/
def lfsrShift (poly lfsr : Byte) : Byte :=
  (lfsr >>> 1) ||| (if parity (lfsr &&& poly) then 0x80#8 else 0x00#8)

/-- The output bit of a step: the low bit of the state before it (49 R260). -/
def lfsrOut (lfsr : Byte) : Bool := lfsr.getLsbD 0

/-- `lfsr_next()` (49 R260): the new state and the output bit. -/
def Arch.lfsrNext (a : Arch) : Arch × Bool :=
  ({ a with lfsr := lfsrShift a.lfsrPoly a.lfsr }, lfsrOut a.lfsr)

/-- Restart the descrambler from its seed (49 R262, R270). -/
def Arch.lfsrReseed (a : Arch) : Arch := { a with lfsr := a.lfsrSeed }

/-- XOR `n` payload bits from position `i` with the descrambler stream (49 R263). -/
def descrambleFrom (poly : Byte) : Nat → Nat → Byte → BitVec 8192 → Byte × BitVec 8192
  | 0, _, lfsr, payload => (lfsr, payload)
  | n + 1, i, lfsr, payload =>
    descrambleFrom poly n (i + 1) (lfsrShift poly lfsr)
      (setBit payload i (payload.getLsbD i ^^ lfsrOut lfsr))

/-- `descramble()` (49 R263): from a fresh start, over the L bits of the packet. -/
def Arch.descramble (a : Arch) : Arch :=
  let r := descrambleFrom a.lfsrPoly a.pktL 0 a.lfsrReseed.lfsr a.payload
  { a with lfsr := r.1, payload := r.2 }

/-- `slice(y)`, the hard decision (49 R271). -/
def slice (y : Cplx) : Bool := fgt y.re f0

/-- LFSR_NEXT (49 R261). -/
def execLfsrNext (s : State) : Host.Outcome State Fault Refusal :=
  runCmd .lfsrNext s fun a => .ok a.lfsrNext.1 { bit := a.lfsrNext.2 }

/-- LFSR_SEED (49 R262). -/
def execLfsrSeed (s : State) : Host.Outcome State Fault Refusal :=
  runCmd .lfsrSeed s fun a => .ok a.lfsrReseed {}

/-- DESCRAMBLE (49 R264). -/
def execDescramble (s : State) : Host.Outcome State Fault Refusal :=
  runCmd .descramble s fun a => .ok a.descramble {}

/-- A packet emitted by RX_TICK: descrambled, with the index of its sample (49 R272, R273). -/
def Arch.deliverPacket (a : Arch) (sample : BitVec 64) : Arch :=
  { a.descramble with pktSampleIndex := sample }

/-- The chain after an emitted symbol: packetizer, and on a packet the descrambler (49 R272). The
result is the new state and whether a packet was emitted. -/
def Arch.chainStep (a : Arch) (sample : BitVec 64) (bit : Bool) : Arch × Bool :=
  let p := a.pktStep bit
  if p.2 then (p.1.deliverPacket sample, true) else (p.1, false)

/-- The end of RX_TICK after its synchronizer step; `sample` is the index of the input sample
(49 R272). -/
def rxTickResult (sample : BitVec 64) : Arch × SyncOut → CmdResult
  | (a, .nothing) => .ok a { data := [0, 0] }
  | (a, .symbol y) =>
    .ok (a.chainStep sample (slice y)).1
      { valid := true, bit := slice y, pkt := (a.chainStep sample (slice y)).2, data := [y.re, y.im] }
  | (a, .diverged) => .diverge a

/-- RX_TICK (49 R272). -/
def execRxTick (re im : Word) (s : State) : Host.Outcome State Fault Refusal :=
  runCmd .rxTick s fun a =>
    rxTickResult a.sampleCount (a.countSample.ssStep (sampleOperand re im))

end Sys2Proof.Machine
end

