-- ==== Sys2Proof/Machine/Dispatch.lean ====
section
/-! DEFINITION. One arm per command: each calls its meaning. -/

namespace Sys2Proof.Machine

def exec (i : Instr) (s : State) : Host.Outcome State Fault Refusal :=
  match i with
  | .nop => Sys2Proof.Machine.execNop s
  | .reset => Sys2Proof.Machine.execReset s
  | .start => Sys2Proof.Machine.execStart s
  | .csrRd n => Sys2Proof.Machine.execCsrRd n s
  | .csrWr n d0 => Sys2Proof.Machine.execCsrWr n d0 s
  | .cbRds sel k => Sys2Proof.Machine.execCbRds sel k s
  | .cbRdu sel j => Sys2Proof.Machine.execCbRdu sel j s
  | .pcTick => Sys2Proof.Machine.execPcTick s
  | .pcAdv delta => Sys2Proof.Machine.execPcAdv delta s
  | .pcSin => Sys2Proof.Machine.execPcSin s
  | .pcCos => Sys2Proof.Machine.execPcCos s
  | .pcPhasor => Sys2Proof.Machine.execPcPhasor s
  | .piUpdate e => Sys2Proof.Machine.execPiUpdate e s
  | .interp mu => Sys2Proof.Machine.execInterp mu s
  | .agcTick re im => Sys2Proof.Machine.execAgcTick re im s
  | .ted => Sys2Proof.Machine.execTed s
  | .ssTick re im => Sys2Proof.Machine.execSsTick re im s
  | .corrTick imm => Sys2Proof.Machine.execCorrTick imm s
  | .corrReset => Sys2Proof.Machine.execCorrReset s
  | .pktTick imm => Sys2Proof.Machine.execPktTick imm s
  | .pktRdw w => Sys2Proof.Machine.execPktRdw w s
  | .lfsrNext => Sys2Proof.Machine.execLfsrNext s
  | .lfsrSeed => Sys2Proof.Machine.execLfsrSeed s
  | .descramble => Sys2Proof.Machine.execDescramble s
  | .rxTick re im => Sys2Proof.Machine.execRxTick re im s

end Sys2Proof.Machine
end

