-- ==== Sys2Proof/Machine/Port.lean ====
section
/-! DEFINITION. The two ports: framing of command words, rejected frames, the reset pin and the taking
of responses (20_memory.md, 60 R281, 70 R310, R312). -/

namespace Sys2Proof.Machine

/-- The rest of what the host will do, after the event of this edge. -/
def State.advancePort (s : State) (es : List PortEvent) : State := { s with cmdPort := es }

/-- An edge with `rst_n = 0`: the block takes its reset values, a command whose last word has not been
taken is discarded and so are the responses not yet taken (70 R310, R312). -/
def State.pinReset (s : State) : State :=
  { s with arch := s.arch.applyReset, taken := [], rspPort := [] }

/-- The host takes the earliest response word; with none sent, `rsp_valid` is 0 and nothing moves
(20 R61). -/
def State.takeResponse (s : State) : State := { s with rspPort := s.rspPort.tail }

/-- The words of the current command once `w` is taken (20 R62). -/
def State.frameWith (s : State) (w : Word) : List Word := s.taken ++ [w]

/-- A command's last word has been taken: the next word is a header (20 R62). -/
def State.endFrame (s : State) : State := { s with taken := [] }

/-- OPC of the header a list of words begins with. -/
def frameOpc : List Word → BitVec 8
  | [] => 0#8
  | h :: _ => hdrOpc h

/-- What taking a word does where the words so far give no command: an incomplete command waits for its
next word (20 R62), and a complete but rejected one answers its result code, its data words discarded
and no state changed (30 R83; 60 R281 to R283). -/
def State.frameError (s : State) (ws : List Word) : DecodeError → State
  | .noHeader => s
  | .truncated => { s with taken := ws }
  | .illegalOpcode => s.endFrame.send (errorWords (frameOpc ws) .illegalOpcode)
  | .reservedField => s.endFrame.send (errorWords (frameOpc ws) .reservedField)

/-- The words of a list up to the end of its first command: the header and LEN data words. -/
def firstFrame : List Word → List Word
  | [] => []
  | h :: ws => h :: ws.take (hdrLen h)

/-- Present a command so that the next edge takes its last word: the words before it are taken
already. -/
def State.presentFrame (s : State) (ws : List Word) : State :=
  match ws.getLast? with
  | none => s
  | some w => { s with taken := ws.dropLast, cmdPort := .word w :: s.cmdPort }

end Sys2Proof.Machine
end

