-- ==== Sys2Proof/Machine/Step.lean ====
section
/-! DEFINITION. One step of the machine: the port event of one clock edge, and the whole execution of
the command whose last word it takes (20 R62, R64, R65; log entries 1 and 2). -/

namespace Sys2Proof.Machine

/-- One step. With nothing to do on the ports the block holds all its state (60 R295). -/
def step (s : State) : Host.Outcome State Fault Refusal :=
  match s.cmdPort with
  | [] => .next s
  | .rstN :: es => .next (s.advancePort es).pinReset
  | .rspReady :: es => .next (s.advancePort es).takeResponse
  | .word w :: es =>
    match decode (s.frameWith w) with
    | .ok (i, _) => exec i (s.advancePort es).endFrame
    | .error e => .next ((s.advancePort es).frameError (s.frameWith w) e)

/-- The state in which the command of the table word `w` is presented: all its words but the last are
taken already, and the next edge takes the last one (log entry 5). -/
def State.withFetchWord (s : State) (nbits w : Nat) : State :=
  s.presentFrame (firstFrame (tableWords nbits w))

end Sys2Proof.Machine
end

