-- ==== Sys2Proof/Safety.lean ====
section
/-! DEFINITION. What holds in every state the block can reach from reset, in the terms the claims use. -/

namespace Sys2Proof.Safety

open Sys2Proof.Machine

/-- RAW, IH and EH have their fixed sizes, RAW_CUR and IH_CUR their ranges (10 R35 to R37, R52). -/
def BuffersSized (a : Arch) : Prop :=
  a.raw.data.length = Config.rawDepth ∧ a.raw.cur < Config.rawDepth ∧
  a.ih.data.length = Config.ihDepth ∧ a.ih.cur < Config.ihDepth ∧
  a.eh.data.length = Config.syncLenMax

/-- FAULT_CAUSE is DIVERGED in FAULT and 0 elsewhere (10 R22). -/
def FaultCauseTold (a : Arch) : Prop :=
  a.faultCause = if a.lifecycle = .fault then rcValue .diverged else rcValue .ok

/-- Outside CONFIG the configuration is one START accepts (10 R23, 40 R122). -/
def ConfigurationLegal (a : Arch) : Prop := a.lifecycle ≠ .config → startLegal a = true

/-- Outside CONFIG the derived constants are those of the configuration (10 R34). -/
def ConstantsDerived (a : Arch) : Prop := a.lifecycle ≠ .config → a.deriveConstants = a

/-- In CONFIG every element but the configuration registers holds its reset value (40 R125). -/
def UnitsUnconstructed (a : Arch) : Prop :=
  a.lifecycle = .config →
    a = { Arch.reset with
          sps := a.sps, loopBw := a.loopBw, loopDamp := a.loopDamp, agcAlpha := a.agcAlpha,
          syncLen := a.syncLen, syncPatLo := a.syncPatLo, syncPatHi := a.syncPatHi,
          threshold := a.threshold, pktLen := a.pktLen, lfsrPoly := a.lfsrPoly,
          lfsrSeed := a.lfsrSeed }

/-- EH_CUR is in [0, N) and the slots N and above hold 0 (10 R37, R55). -/
def CorrelatorOk (a : Arch) : Prop :=
  a.lifecycle ≠ .config →
    a.eh.cur < a.syncN ∧ ∀ i, a.syncN ≤ i → a.eh.slotVal i = 0

/-- CAPIDX is 0 in Scanning and in [0, PKT_LEN) after START, PKT_AVAIL is 1 only in Scanning, and the
payload's bits L and above are 0 (10 R42 to R44, R55). -/
def PacketizerOk (a : Arch) : Prop :=
  (a.pstate = .scanning → a.capidx = 0) ∧
  (a.pktAvail = true → a.pstate = .scanning) ∧
  (a.lifecycle ≠ .config →
    a.capidx < a.pktL ∧ ∀ i, a.pktL ≤ i → a.payload.getLsbD i = false)

/-- The invariant of the block's state. -/
def ArchInv (a : Arch) : Prop :=
  BuffersSized a ∧ FaultCauseTold a ∧ ConfigurationLegal a ∧ ConstantsDerived a ∧
  UnitsUnconstructed a ∧ CorrelatorOk a ∧ PacketizerOk a

/-- The words in transit are none, or the beginning of a command whose last word is still to come
(20 R62). -/
def FrameOpen (s : State) : Prop := s.taken = [] ∨ decode s.taken = .error .truncated

/-- The invariant every step keeps. -/
def Inv (s : State) : Prop := ArchInv s.arch ∧ FrameOpen s

/-- The entry of a hypothesis that has seen i + 1 symbols is at most NOLOCK + i + 1: it began at 0 or
NOLOCK and each symbol adds at most 1 (48 R241). -/
def CountsBounded (a : Arch) : Prop :=
  a.lifecycle ≠ .config →
    ∀ i, i < a.syncN → (a.eh.getS a.syncN (-(i : Int))).toNat ≤ a.nolock.toNat + i + 1

/-! ## The vocabulary of the claims -/

/-- The machine after a command that leaves the block in the state `a` and sends the words `ws`: nothing
else of the machine changes. -/
def answered (s : State) (a : Arch) (ws : List Word) : State :=
  { s with arch := a, rspPort := s.rspPort ++ ws }

/-- Run commands one after another, as far as they answer next states. -/
def runAll (s : State) : List Instr → State
  | [] => s
  | i :: is =>
    match exec i s with
    | .next t => runAll t is
    | .fault _ => s
    | .refused _ => s

/-- The immediate of the bit form (30 R86). -/
def bitImm (b : Bool) : BitVec 16 := if b then 1#16 else 0#16

/-- Class R of 30 R89: the commands that inspect. -/
def inspects : Instr → Bool
  | .cbRds _ _ | .cbRdu _ _ | .pcSin | .pcCos | .pcPhasor | .interp _ | .ted | .pktRdw _ => true
  | .nop | .reset | .start | .csrRd _ | .csrWr _ _ | .pcTick | .pcAdv _ | .piUpdate _ | .agcTick _ _
  | .ssTick _ _ | .corrTick _ | .corrReset | .pktTick _ | .lfsrNext | .lfsrSeed | .descramble
  | .rxTick _ _ => false

/-- Class M of 30 R89: the commands that mutate. -/
def mutates : Instr → Bool
  | .pcTick | .pcAdv _ | .piUpdate _ | .agcTick _ _ | .ssTick _ _ | .corrTick _ | .corrReset
  | .pktTick _ | .lfsrNext | .lfsrSeed | .descramble | .rxTick _ _ => true
  | .nop | .reset | .start | .csrRd _ | .csrWr _ _ | .cbRds _ _ | .cbRdu _ _ | .pcSin | .pcCos
  | .pcPhasor | .interp _ | .ted | .pktRdw _ => false

/-- The commands that feed the synchronizer a sample (10 R50). -/
def takesSample : Instr → Bool
  | .ssTick _ _ | .rxTick _ _ => true
  | .nop | .reset | .start | .csrRd _ | .csrWr _ _ | .cbRds _ _ | .cbRdu _ _ | .pcTick | .pcAdv _
  | .pcSin | .pcCos | .pcPhasor | .piUpdate _ | .interp _ | .agcTick _ _ | .ted | .corrTick _
  | .corrReset | .pktTick _ | .pktRdw _ | .lfsrNext | .lfsrSeed | .descramble => false

/-- RX_TICK, the one command that may write PKT_SAMPLE_INDEX in RUN (49 R273). -/
def runsChain : Instr → Bool
  | .rxTick _ _ => true
  | .nop | .reset | .start | .csrRd _ | .csrWr _ _ | .cbRds _ _ | .cbRdu _ _ | .pcTick | .pcAdv _
  | .pcSin | .pcCos | .pcPhasor | .piUpdate _ | .interp _ | .agcTick _ _ | .ted | .ssTick _ _
  | .corrTick _ | .corrReset | .pktTick _ | .pktRdw _ | .lfsrNext | .lfsrSeed | .descramble => false

/-- The rows of 30 R88 that framing and decoding need: OPC, NDATA, whether SEL names an instance, the
form of IMM. -/
def commandTable : List (BitVec 8 × Nat × Bool × ImmForm) :=
  [(0x00, 0, false, .zero), (0x01, 0, false, .zero), (0x02, 0, false, .zero),
   (0x03, 0, false, .csr), (0x04, 1, false, .csr), (0x10, 0, true, .s16), (0x11, 0, true, .u16),
   (0x20, 0, false, .zero), (0x21, 1, false, .zero), (0x22, 0, false, .zero),
   (0x23, 0, false, .zero), (0x24, 0, false, .zero), (0x30, 1, false, .zero),
   (0x40, 1, false, .zero), (0x50, 2, false, .zero), (0x60, 0, false, .zero),
   (0x70, 2, false, .zero), (0x80, 0, false, .bit), (0x81, 0, false, .zero),
   (0x90, 0, false, .bit), (0x91, 0, false, .u16), (0xA0, 0, false, .zero),
   (0xA1, 0, false, .zero), (0xA2, 0, false, .zero), (0xB0, 2, false, .zero)]

/-- The numbers of the configuration registers, RW in CONFIG (10 R45). -/
def configNumbers : List (BitVec 16) :=
  [0x010, 0x011, 0x012, 0x013, 0x014, 0x015, 0x016, 0x017, 0x018, 0x019, 0x01A]

/-- Every assigned register number and what it reads (10 R45 to R50, R53). -/
def registerMap (a : Arch) : List (BitVec 16 × Word) :=
  [(0x000, 0x52524644), (0x001, 0x00000007),
   (0x002, 0#20 ++ a.faultCause ++ 0#3 ++ BitVec.ofBool a.pktAvail ++
     BitVec.ofBool (a.pstate == .capturing) ++ BitVec.ofBool a.gate ++
     (match a.lifecycle with | .config => 0#2 | .run => 1#2 | .fault => 2#2)),
   (0x003, 0x00013840), (0x004, 0x00002000),
   (0x010, a.sps), (0x011, a.loopBw), (0x012, a.loopDamp), (0x013, a.agcAlpha),
   (0x014, a.syncLen), (0x015, a.syncPatLo), (0x016, a.syncPatHi), (0x017, a.threshold),
   (0x018, a.pktLen), (0x019, 0#24 ++ a.lfsrPoly), (0x01A, 0#24 ++ a.lfsrSeed),
   (0x020, a.rate), (0x021, a.kp), (0x022, a.ki), (0x023, a.agcOma), (0x024, a.nolock),
   (0x030, a.phase), (0x031, a.integ), (0x032, a.agcP), (0x033, 0#24 ++ a.lfsr),
   (0x034, BitVec.ofNat 32 a.capidx),
   (0x035, 0#10 ++ BitVec.ofNat 6 a.eh.cur ++ 0#6 ++ BitVec.ofNat 2 a.ih.cur ++ 0#5 ++
     BitVec.ofNat 3 a.raw.cur),
   (0x036, a.sampleCount.extractLsb' 0 32), (0x037, a.sampleCount.extractLsb' 32 32),
   (0x038, a.packetCount),
   (0x039, a.pktSampleIndex.extractLsb' 0 32), (0x03A, a.pktSampleIndex.extractLsb' 32 32)]

/-- The configuration registers of a state (10 R24 to R33). -/
def configuration (a : Arch) : List Word :=
  [a.sps, a.loopBw, a.loopDamp, a.agcAlpha, a.syncLen, a.syncPatLo, a.syncPatHi, a.threshold,
   a.pktLen, a.lfsrPoly.setWidth 32, a.lfsrSeed.setWidth 32]

/-- The derived constants of a state (10 R34). -/
def derivedConstants (a : Arch) : List Word := [a.rate, a.kp, a.ki, a.agcOma, a.nolock]

/-- How many of the pattern's N bits differ from the last N of the symbols fed (48 R241). -/
def hammingDistance (a : Arch) (symbols : List Bool) : Nat :=
  (List.range a.syncN).countP fun i =>
    a.syncPat.getLsbD i != (symbols.drop (symbols.length - a.syncN)).getD i false

end Sys2Proof.Safety
end

