-- ==== Sys2Proof/WellFormed.lean ====
section
/-! DEFINITION. Which terms of `Instr` a command can stand for: the operand fields have their exact
widths, so the one check left is the unused-bit rule of the bit form (30 R86, R91). -/

namespace Sys2Proof

/-- The unused-bit rule of the bit form: IMM[15:1] is 0 (30 R86). -/
def bitImmOk (imm : BitVec 16) : Bool := imm.extractLsb' 1 15 == 0#15

/-- The command can be written as words that the decoder accepts. -/
def Instr.wellFormed : Instr → Bool
  | .nop => true
  | .reset => true
  | .start => true
  | .csrRd _ => true
  | .csrWr _ _ => true
  | .cbRds _ _ => true
  | .cbRdu _ _ => true
  | .pcTick => true
  | .pcAdv _ => true
  | .pcSin => true
  | .pcCos => true
  | .pcPhasor => true
  | .piUpdate _ => true
  | .interp _ => true
  | .agcTick _ _ => true
  | .ted => true
  | .ssTick _ _ => true
  | .corrTick imm => bitImmOk imm
  | .corrReset => true
  | .pktTick imm => bitImmOk imm
  | .pktRdw _ => true
  | .lfsrNext => true
  | .lfsrSeed => true
  | .descramble => true
  | .rxTick _ _ => true

end Sys2Proof
end

