-- ==== Sys2Proof/Certificates/Slice0/Obligations.lean ====
section
/-! DEFINITION. The statements for the provers. "42 R160" is rule R160 of the spec file 42_…; a response
word is written as the spec's response header (30 R81). -/

open Sys2Proof Sys2Proof.Machine Sys2Proof.Safety

/-! ## Encoding -/

/-- 30 R80 to R88: decoding the words of a well-formed command gives it back, with every operand at every
value its field admits, and leaves the words after it. -/
def Obligations.DecodeEncodeRoundTrip : Prop :=
  ∀ (i : Instr) (rest : List Word), i.wellFormed = true → decode (encode i ++ rest) = .ok (i, rest)

/-- 30 R91: no reserved field is ignored, so what the decoder accepts is the encoding of its answer and of
nothing else. -/
def Obligations.DecodeAcceptsOnlyEncodings : Prop :=
  ∀ (ws rest : List Word) (i : Instr),
    decode ws = .ok (i, rest) → i.wellFormed = true ∧ ws = encode i ++ rest

/-- 30 R88, R91: a complete command is the operation whose mask and match its header meets. -/
def Obligations.DecodeFollowsMatchAndMask : Prop :=
  ∀ (h : Word) (ds : List Word) (o : Opcode), (h.extractLsb' 12 2).toNat ≤ ds.length →
    ((∃ i rest, decode (h :: ds) = .ok (i, rest) ∧ i.opcode = o) ↔
      h &&& o.matchMask.2 = o.matchMask.1)

/-- 30 R80, R82, R86: a word of several families, written out from the spec, and the command it stands for;
two rejected headers of 60 R281. -/
def Obligations.SpecWordsDecode : Prop :=
  decode [0x00000003#32] = .ok (.csrRd 0x000#16, []) ∧
  decode [0x00101004#32, 0x40800000#32] = .ok (.csrWr 0x010#16 0x40800000#32, []) ∧
  decode [0xFFF70110#32] = .ok (.cbRds 1#4 0xFFF7#16, []) ∧
  decode [0x00001021#32, 0x40600000#32] = .ok (.pcAdv 0x40600000#32, []) ∧
  decode [0x00002050#32, 0x40400000#32, 0x40800000#32] = .ok (.agcTick 0x40400000#32 0x40800000#32, []) ∧
  decode [0x00010080#32] = .ok (.corrTick 1#16, []) ∧
  decode [0x000000A2#32] = .ok (.descramble, []) ∧
  decode [0x000020B0#32, 0x3F800000#32, 0#32, 0x00000060#32]
    = .ok (.rxTick 0x3F800000#32 0#32, [0x00000060#32]) ∧
  decode [0x000000FF#32] = .error .illegalOpcode ∧
  decode [0x0001C020#32] = .error .reservedField

/-! ## The command port -/

/-- 20 R62, 30 R83: while fewer than LEN data words of a command have been taken, a word is collected and
nothing else happens. -/
def Obligations.IncompleteCommandsWait : Prop :=
  ∀ (s : State) (w h : Word) (ds : List Word) (es : List PortEvent),
    s.cmdPort = .word w :: es → s.taken ++ [w] = h :: ds →
    ds.length < (h.extractLsb' 12 2).toNat →
    step s = .next { s with taken := h :: ds, cmdPort := es }

/-- 30 R90, R83: when the last of LEN data words of a command with an OPC outside the table is taken, the
answer is ILLEGAL_OPCODE and nothing else happens. -/
def Obligations.IllegalOpcodesAreRejected : Prop :=
  ∀ (s : State) (w h : Word) (ds : List Word) (es : List PortEvent),
    s.cmdPort = .word w :: es → s.taken ++ [w] = h :: ds →
    ds.length = (h.extractLsb' 12 2).toNat →
    (∀ r ∈ commandTable, r.1 ≠ h.extractLsb' 0 8) →
    step s = .next { s with
      taken := [], cmdPort := es
      rspPort := s.rspPort ++ [0#16 ++ h.extractLsb' 0 8 ++ 0x01#8] }

/-- 30 R91, R83, R85, R86: a command of the table with a violated reserved field is answered with
RESERVED_FIELD when its last data word is taken, and nothing else happens. -/
def Obligations.ReservedFieldsAreRejected : Prop :=
  ∀ (s : State) (w h : Word) (ds : List Word) (es : List PortEvent)
    (r : BitVec 8 × Nat × Bool × ImmForm),
    s.cmdPort = .word w :: es → s.taken ++ [w] = h :: ds →
    ds.length = (h.extractLsb' 12 2).toNat →
    r ∈ commandTable → r.1 = h.extractLsb' 0 8 →
    (h.extractLsb' 14 2 ≠ 0#2 ∨ (h.extractLsb' 12 2).toNat ≠ r.2.1 ∨
      (r.2.2.1 = false ∧ h.extractLsb' 8 4 ≠ 0#4) ∨
      (r.2.2.2 = .zero ∧ h.extractLsb' 16 16 ≠ 0#16) ∨
      (r.2.2.2 = .bit ∧ h.extractLsb' 17 15 ≠ 0#15)) →
    step s = .next { s with
      taken := [], cmdPort := es
      rspPort := s.rspPort ++ [0#16 ++ h.extractLsb' 0 8 ++ 0x02#8] }

/-- 20 R62, R64: the word that completes a command makes the step run exactly that command, with the port
moved past the word and the next word a header. The form of the ports is the model's (log entry 1). -/
def Obligations.StepRunsDecodedCommand : Prop :=
  ∀ (s : State) (w : Word) (es : List PortEvent) (i : Instr) (rest : List Word),
    s.cmdPort = .word w :: es → decode (s.taken ++ [w]) = .ok (i, rest) →
    step s = exec i { s with taken := [], cmdPort := es }

/-- 70 R324: three zero words bring the block to a command boundary from every position. -/
def Obligations.ThreeZeroWordsResynchronise : Prop :=
  ∀ (s : State) (es : List PortEvent),
    s.cmdPort = .word 0#32 :: .word 0#32 :: .word 0#32 :: es →
    ∃ t1 t2 t3, step s = .next t1 ∧ step t1 = .next t2 ∧ step t2 = .next t3 ∧
      t3.taken = [] ∧ t3.cmdPort = es

/-- 20 R61, 60 R295: the host takes response words from the front, and with nothing to do on the ports the
machine holds all its state. The form of the ports is the model's (log entry 1). -/
def Obligations.ResponsesLeaveInOrder : Prop :=
  (∀ (s : State) (es : List PortEvent), s.cmdPort = .rspReady :: es →
    step s = .next { s with cmdPort := es, rspPort := s.rspPort.drop 1 }) ∧
  (∀ s : State, s.cmdPort = [] → step s = .next s)

/-! ## Reset -/

/-- 70 R311, 10 R55: the reset value of every element, and both kinds of reset give it. -/
def Obligations.ResetValues : Prop :=
  State.reset.arch =
    { lifecycle := .config, faultCause := 0#4
      sps := 0#32, loopBw := 0#32, loopDamp := 0#32, agcAlpha := 0#32
      syncLen := 0#32, syncPatLo := 0#32, syncPatHi := 0#32, threshold := 0#32, pktLen := 0#32
      lfsrPoly := 0#8, lfsrSeed := 0#8
      rate := 0#32, kp := 0#32, ki := 0#32, agcOma := 0#32, nolock := 0#32
      raw := ⟨List.replicate 8 ⟨0#32, 0#32⟩, 0⟩
      ih := ⟨List.replicate 3 ⟨0#32, 0#32⟩, 0⟩
      eh := ⟨List.replicate 64 0#32, 0⟩
      phase := 0#32, integ := 0#32, agcP := 0#32, gate := false
      pstate := .scanning, capidx := 0, payload := 0#8192, pktAvail := false
      lfsr := 0#8, sampleCount := 0#64, packetCount := 0#32, pktSampleIndex := 0#64 } ∧
  State.reset.taken = [] ∧ State.reset.rspPort = [] ∧
  (∀ s t : State, exec .reset s = .next t → t.arch = State.reset.arch) ∧
  (∀ (s t : State) (es : List PortEvent), s.cmdPort = .rstN :: es → step s = .next t →
    t.arch = State.reset.arch)

/-- 70 R310, R312: an edge with rst_n = 0 gives every state the reset values, discards a command whose last
word has not been taken and the responses not yet taken, and sends nothing. -/
def Obligations.PinResetFromEveryState : Prop :=
  ∀ (s : State) (es : List PortEvent), s.cmdPort = .rstN :: es →
    step s = .next { arch := State.reset.arch, taken := [], cmdPort := es, rspPort := [] }

/-! ## The whole machine -/

/-- 60 R280: every error is a result code in a response, so no step stops the machine. -/
def Obligations.NoStepStops : Prop := ∀ s : State, ∃ t, step s = .next t

/-- The invariant holds right after reset (70 R311). -/
def Obligations.ResetMeetsInvariant : Prop := Inv State.reset

/-- 10 R22, R23, R34 to R37, R42 to R44, R52, R54, R55; 20 R62: from every state that meets the invariant,
reached or not, a step gives a state that meets it. -/
def Obligations.StepKeepsInvariant : Prop :=
  ∀ s t : State, Inv s → step s = .next t → Inv t

/-- 48 R241: a count never exceeds NOLOCK + N, so the 32-bit counts never wrap; said of each hypothesis by
its age, as an invariant of its own. -/
def Obligations.StepKeepsCountsBounded : Prop :=
  ∀ s t : State, Inv s → CountsBounded s.arch → step s = .next t → CountsBounded t.arch

/-- 60 R290: STATE moves only as the table says. -/
def Obligations.LifecycleMovesByTheTable : Prop :=
  (∀ (s t : State) (es : List PortEvent), s.cmdPort = .rstN :: es → step s = .next t →
    t.arch.lifecycle = .config) ∧
  (∀ (s t : State) (es : List PortEvent), s.cmdPort = .rspReady :: es ∨ s.cmdPort = [] →
    step s = .next t → t.arch.lifecycle = s.arch.lifecycle) ∧
  (∀ (s t : State) (w : Word) (es : List PortEvent) (e : DecodeError),
    s.cmdPort = .word w :: es → decode (s.taken ++ [w]) = .error e → step s = .next t →
    t.arch.lifecycle = s.arch.lifecycle) ∧
  (∀ (i : Instr) (s t : State), exec i s = .next t →
    (i = .reset → t.arch.lifecycle = .config) ∧
    (i ≠ .reset → s.arch.lifecycle = .config →
      t.arch.lifecycle = if i = .start ∧ startLegal s.arch = true then .run else .config) ∧
    (i ≠ .reset → s.arch.lifecycle = .run →
      (t.arch.lifecycle = .run ∨
        (t.arch.lifecycle = .fault ∧ takesSample i = true ∧
          t.rspPort = s.rspPort ++ [0#16 ++ i.opcode.byte ++ 0x09#8]))) ∧
    (i ≠ .reset → s.arch.lifecycle = .run → t.arch.lifecycle = .run →
      t.rspPort ≠ s.rspPort ++ [0#16 ++ i.opcode.byte ++ 0x09#8]) ∧
    (i ≠ .reset → s.arch.lifecycle = .fault → t.arch.lifecycle = .fault))

/-- 60 R283, 30 R83: a complete command, accepted or rejected, has all its words taken and one response,
and changes no state of the block where its code is neither OK nor DIVERGED. -/
def Obligations.ErrorsChangeNoState : Prop :=
  ∀ (s t : State) (w : Word) (es : List PortEvent),
    s.cmdPort = .word w :: es → decode (s.taken ++ [w]) ≠ .error .truncated → step s = .next t →
    t.taken = [] ∧ t.cmdPort = es ∧
    ∃ h ds, t.rspPort = s.rspPort ++ h :: ds ∧
      (h.extractLsb' 0 4 ≠ 0#4 → h.extractLsb' 0 4 ≠ 9#4 → t.arch = s.arch)

/-- 30 R81, R93, R94; 60 R282: the shape of the one response of every command. -/
def Obligations.ResponsesHaveTheirShape : Prop :=
  ∀ (i : Instr) (s t : State), exec i s = .next t →
    t.taken = s.taken ∧ t.cmdPort = s.cmdPort ∧
    ∃ h ds, t.rspPort = s.rspPort ++ h :: ds ∧
      h.extractLsb' 8 8 = i.opcode.byte ∧ h.extractLsb' 7 1 = 0#1 ∧ h.extractLsb' 18 14 = 0#14 ∧
      (h.extractLsb' 16 2).toNat = ds.length ∧ (h.extractLsb' 0 4).toNat ≤ 9 ∧
      (h.extractLsb' 0 4 = 0#4 → ds.length = i.opcode.nresp) ∧
      (h.extractLsb' 0 4 ≠ 0#4 → ds = [] ∧ h.extractLsb' 4 3 = 0#3)

/-- 60 R281, 30 R89: which code a decoded command answers, the first condition of the order that holds.
(ILLEGAL_OPCODE and RESERVED_FIELD come before, at framing.) -/
def Obligations.ResultCodeFollowsPrecedence : Prop :=
  ∀ (i : Instr) (s t : State), exec i s = .next t →
    ∃ h ds, t.rspPort = s.rspPort ++ h :: ds ∧
      let rc := (h.extractLsb' 0 4).toNat
      let badCsr := (∃ n, i = .csrRd n ∧ ∀ p ∈ registerMap s.arch, p.1 ≠ n) ∨
        (∃ n d, i = .csrWr n d ∧ n ∉ configNumbers)
      let faulted := mutates i = true ∧ s.arch.lifecycle = .fault
      let badState := ((i = .start ∨ ∃ n d, i = .csrWr n d) ∧ s.arch.lifecycle ≠ .config) ∨
        ((inspects i = true ∨ mutates i = true) ∧ s.arch.lifecycle = .config)
      let badOperand := (∃ sel k, (i = .cbRds sel k ∨ i = .cbRdu sel k) ∧ 3 ≤ sel.toNat) ∨
        (∃ mu, i = .interp mu ∧ ¬(fge mu 0x00000000#32 = true ∧ flt mu 0x3F800000#32 = true))
      let size := fun sel : BitVec 4 => [8, 3, s.arch.syncLen.toNat].getD sel.toNat 0
      let indexRange :=
        (∃ sel k, i = .cbRds sel k ∧ ¬(-(size sel : Int) ≤ k.toInt ∧ k.toInt < (size sel : Int))) ∨
        (∃ sel j, i = .cbRdu sel j ∧ size sel < j.toNat) ∨
        (∃ w, i = .pktRdw w ∧ (s.arch.pktLen.toNat + 31) / 32 ≤ w.toNat)
      let cfgInvalid := i = .start ∧ startLegal s.arch = false
      (badCsr → rc = 6) ∧
      (¬badCsr → faulted → rc = 4) ∧
      (¬badCsr → ¬faulted → badState → rc = 3) ∧
      (¬badCsr → ¬faulted → ¬badState → badOperand → rc = 7) ∧
      (¬badCsr → ¬faulted → ¬badState → ¬badOperand → indexRange → rc = 5) ∧
      (¬badCsr → ¬faulted → ¬badState → ¬badOperand → ¬indexRange → cfgInvalid → rc = 8) ∧
      (¬badCsr → ¬faulted → ¬badState → ¬badOperand → ¬indexRange → ¬cfgInvalid →
        rc = 0 ∨ (rc = 9 ∧ takesSample i = true))

/-- 60 R285: while STATE = FAULT, every command but RESET leaves the frozen state; class M answers FAULTED,
START and CSR_WR of a configuration register BAD_STATE, and class R answers as it does in RUN. -/
def Obligations.FaultFreezesTheState : Prop :=
  ∀ (i : Instr) (s : State), s.arch.lifecycle = .fault → i ≠ .reset →
    ∃ ws, exec i s = .next (answered s s.arch ws) ∧
      (mutates i = true → ws = [0#16 ++ i.opcode.byte ++ 0x04#8]) ∧
      (i = .nop → ws = [0x00000000#32]) ∧
      (i = .start → ws = [0x00000203#32]) ∧
      (∀ n d, i = .csrWr n d → n ∈ configNumbers → ws = [0x00000403#32]) ∧
      (∀ p ∈ registerMap s.arch, i = .csrRd p.1 → ws = [0x00010300#32, p.2]) ∧
      (inspects i = true →
        let r := { s.arch with lifecycle := Lifecycle.run }
        exec i (s.withArch r) = .next (answered (s.withArch r) r ws))

/-- 20 R69: the commands that read leave all state unchanged and answer the same when repeated. -/
def Obligations.ReadsHaveNoSideEffect : Prop :=
  ∀ (i : Instr) (s : State), (inspects i = true ∨ ∃ n, i = .csrRd n) →
    ∃ ws, exec i s = .next (answered s s.arch ws) ∧
      exec i (answered s s.arch ws) = .next (answered (answered s s.arch ws) s.arch ws)

/-- 10 R23, R34, R54; 70 R321: the configuration is written by CSR_WR in CONFIG only, the derived constants
by START in CONFIG only, and both are held in RUN and FAULT; RESET apart, which clears both. -/
def Obligations.ConfigurationIsHeld : Prop :=
  ∀ (i : Instr) (s t : State), exec i s = .next t → i ≠ .reset →
    (s.arch.lifecycle ≠ .config → configuration t.arch = configuration s.arch ∧
      derivedConstants t.arch = derivedConstants s.arch) ∧
    ((∀ n d, i ≠ .csrWr n d) → configuration t.arch = configuration s.arch) ∧
    (i ≠ .start → derivedConstants t.arch = derivedConstants s.arch)

/-- 10 R50, 60 R291: how each counter moves, with PKT and VALID read from the response. -/
def Obligations.CountersCount : Prop :=
  ∀ (i : Instr) (s t : State), exec i s = .next t →
    ∃ h ds, t.rspPort = s.rspPort ++ h :: ds ∧
      ((i = .reset ∨ (i = .start ∧ h = 0x00000200#32)) →
        t.arch.sampleCount = 0#64 ∧ t.arch.packetCount = 0#32 ∧ t.arch.pktSampleIndex = 0#64) ∧
      (¬(i = .reset ∨ (i = .start ∧ h = 0x00000200#32)) →
        t.arch.sampleCount = (if takesSample i = true ∧ s.arch.lifecycle = .run
          then s.arch.sampleCount + 1#64 else s.arch.sampleCount) ∧
        t.arch.packetCount = (if h.extractLsb' 6 1 = 1#1
          then s.arch.packetCount + 1#32 else s.arch.packetCount) ∧
        t.arch.pktSampleIndex = (if runsChain i = true ∧ h.extractLsb' 6 1 = 1#1
          then s.arch.sampleCount else s.arch.pktSampleIndex))

/-! ## Control commands -/

/-- 40 R120: NOP runs in every STATE, changes nothing, and answers behind the responses not yet taken. -/
def Obligations.NopAnswersAndChangesNothing : Prop :=
  encode .nop = [0x00000000#32] ∧
  ∀ s : State, exec .nop s = .next (answered s s.arch [0x00000000#32])

/-- 40 R121: RESET runs in every STATE, gives every element its reset value and answers after it, behind the
responses not yet taken; no other command leaves FAULT. -/
def Obligations.ResetCommandResetsEverything : Prop :=
  encode .reset = [0x00000001#32] ∧
  (∀ s : State, exec .reset s = .next (answered s State.reset.arch [0x00000100#32])) ∧
  (∀ (i : Instr) (s t : State), s.arch.lifecycle = .fault → exec i s = .next t →
    t.arch.lifecycle ≠ .fault → i = .reset)

/-- 40 R122 to R124, 43 R181: START in CONFIG with a legal configuration derives the constants and gives
every unit its construction value; with an illegal one it answers CFG_INVALID, and outside CONFIG
BAD_STATE, and changes nothing. -/
def Obligations.StartValidatesAndConstructs : Prop :=
  encode .start = [0x00000002#32] ∧
  ∀ s : State,
    let a := s.arch
    let d4 := fmul 0x40800000#32 a.loopDamp
    let q := fadd a.loopDamp (fdiv 0x3F800000#32 d4)
    let kp := fdiv (fmul (fdiv d4 q) a.loopBw) a.sps
    let ki := fdiv (fmul (fdiv 0x40800000#32 (fmul q q)) (fmul a.loopBw a.loopBw)) a.sps
    let legal :=
      finite a.sps = true ∧ fge a.sps 0x40000000#32 = true ∧
      finite a.loopBw = true ∧ fge a.loopBw 0x00000000#32 = true ∧
      finite a.loopDamp = true ∧ fgt a.loopDamp 0x00000000#32 = true ∧
      fgt a.agcAlpha 0x00000000#32 = true ∧ flt a.agcAlpha 0x3F800000#32 = true ∧
      1 ≤ a.syncLen.toNat ∧ a.syncLen.toNat ≤ 64 ∧ a.threshold.toNat ≤ 65535 ∧
      1 ≤ a.pktLen.toNat ∧ a.pktLen.toNat ≤ 8192 ∧ finite kp = true ∧ finite ki = true
    (a.lifecycle = .config → legal →
      exec .start s = .next (answered s
        { a with
          lifecycle := .run, faultCause := 0#4
          rate := fdiv 0x41490FDB#32 a.sps, kp := kp, ki := ki
          agcOma := fsub 0x3F800000#32 a.agcAlpha, nolock := a.threshold + 1#32
          raw := ⟨List.replicate 8 ⟨0#32, 0#32⟩, 0⟩
          ih := ⟨List.replicate 3 ⟨0#32, 0#32⟩, 0⟩
          eh := ⟨List.replicate a.syncLen.toNat (a.threshold + 1#32) ++
            List.replicate (64 - a.syncLen.toNat) 0#32, 0⟩
          phase := 0#32, integ := 0#32, agcP := 0x3F800000#32, gate := false
          pstate := .scanning, capidx := 0, payload := 0#8192, pktAvail := false
          lfsr := a.lfsrSeed, sampleCount := 0#64, packetCount := 0#32, pktSampleIndex := 0#64 }
        [0x00000200#32])) ∧
    (a.lifecycle = .config → ¬legal → exec .start s = .next (answered s a [0x00000208#32])) ∧
    (a.lifecycle ≠ .config → exec .start s = .next (answered s a [0x00000203#32]))

/-- 40 R125, 10 R45 to R50, R53: CSR_RD runs in every STATE, answers the register its number names and
changes nothing; an unassigned number is BAD_CSR. -/
def Obligations.CsrReadsTheRegisterMap : Prop :=
  (∀ n : BitVec 16, encode (.csrRd n) = [n ++ 0x0003#16]) ∧
  ∀ s : State,
    (∀ p ∈ registerMap s.arch,
      exec (.csrRd p.1) s = .next (answered s s.arch [0x00010300#32, p.2])) ∧
    (∀ n, (∀ p ∈ registerMap s.arch, p.1 ≠ n) →
      exec (.csrRd n) s = .next (answered s s.arch [0x00000306#32]))

/-- 40 R126, 10 R32, R33, R45: CSR_WR in CONFIG stores the word as written in the one register its number
names (its low 8 bits in the 8-bit registers); a read-only or unassigned number is BAD_CSR in every STATE,
and a configuration register outside CONFIG is BAD_STATE. -/
def Obligations.CsrWritesTheConfiguration : Prop :=
  (∀ (n : BitVec 16) (d : Word), encode (.csrWr n d) = [n ++ 0x1004#16, d]) ∧
  ∀ (s : State) (d : Word),
    (s.arch.lifecycle = .config →
      exec (.csrWr 0x010#16 d) s = .next (answered s { s.arch with sps := d } [0x00000400#32]) ∧
      exec (.csrWr 0x011#16 d) s = .next (answered s { s.arch with loopBw := d } [0x00000400#32]) ∧
      exec (.csrWr 0x012#16 d) s = .next (answered s { s.arch with loopDamp := d } [0x00000400#32]) ∧
      exec (.csrWr 0x013#16 d) s = .next (answered s { s.arch with agcAlpha := d } [0x00000400#32]) ∧
      exec (.csrWr 0x014#16 d) s = .next (answered s { s.arch with syncLen := d } [0x00000400#32]) ∧
      exec (.csrWr 0x015#16 d) s = .next (answered s { s.arch with syncPatLo := d } [0x00000400#32]) ∧
      exec (.csrWr 0x016#16 d) s = .next (answered s { s.arch with syncPatHi := d } [0x00000400#32]) ∧
      exec (.csrWr 0x017#16 d) s = .next (answered s { s.arch with threshold := d } [0x00000400#32]) ∧
      exec (.csrWr 0x018#16 d) s = .next (answered s { s.arch with pktLen := d } [0x00000400#32]) ∧
      exec (.csrWr 0x019#16 d) s
        = .next (answered s { s.arch with lfsrPoly := d.extractLsb' 0 8 } [0x00000400#32]) ∧
      exec (.csrWr 0x01A#16 d) s
        = .next (answered s { s.arch with lfsrSeed := d.extractLsb' 0 8 } [0x00000400#32])) ∧
    (s.arch.lifecycle ≠ .config → ∀ n ∈ configNumbers,
      exec (.csrWr n d) s = .next (answered s s.arch [0x00000403#32])) ∧
    (∀ n, n ∉ configNumbers → exec (.csrWr n d) s = .next (answered s s.arch [0x00000406#32]))

/-! ## Circular buffers -/

/-- 41 R146, R142, R144: CB_RDS answers the element of the instance in the slot (cursor - 1 + k) mod N for
-N ≤ k < N, and changes nothing. -/
def Obligations.CbRdsReadsSignedOffsets : Prop :=
  (∀ (sel : BitVec 4) (k : BitVec 16), encode (.cbRds sel k) = [k ++ 0x0#4 ++ sel ++ 0x10#8]) ∧
  ∀ (s : State) (k : BitVec 16),
    let a := s.arch
    let slot := fun n cur : Nat => (((cur : Int) - 1 + k.toInt) % (n : Int)).toNat
    (a.lifecycle = .config → ∀ sel, exec (.cbRds sel k) s = .next (answered s a [0x00001003#32])) ∧
    (a.lifecycle ≠ .config → ∀ sel : BitVec 4, 3 ≤ sel.toNat →
      exec (.cbRds sel k) s = .next (answered s a [0x00001007#32])) ∧
    (a.lifecycle ≠ .config → ArchInv a →
      ((-8 ≤ k.toInt ∧ k.toInt < 8) → ∃ v, a.raw.data[slot 8 a.raw.cur]? = some v ∧
        exec (.cbRds 0#4 k) s = .next (answered s a [0x00021000#32, v.re, v.im])) ∧
      (¬(-8 ≤ k.toInt ∧ k.toInt < 8) →
        exec (.cbRds 0#4 k) s = .next (answered s a [0x00001005#32])) ∧
      ((-3 ≤ k.toInt ∧ k.toInt < 3) → ∃ v, a.ih.data[slot 3 a.ih.cur]? = some v ∧
        exec (.cbRds 1#4 k) s = .next (answered s a [0x00021000#32, v.re, v.im])) ∧
      (¬(-3 ≤ k.toInt ∧ k.toInt < 3) →
        exec (.cbRds 1#4 k) s = .next (answered s a [0x00001005#32])) ∧
      ((-(a.syncN : Int) ≤ k.toInt ∧ k.toInt < (a.syncN : Int)) →
        ∃ v, a.eh.data[slot a.syncN a.eh.cur]? = some v ∧
          exec (.cbRds 2#4 k) s = .next (answered s a [0x00021000#32, v, 0#32])) ∧
      (¬(-(a.syncN : Int) ≤ k.toInt ∧ k.toInt < (a.syncN : Int)) →
        exec (.cbRds 2#4 k) s = .next (answered s a [0x00001005#32])))

/-- 41 R147, R143: CB_RDU answers the element of the instance in the slot (cursor + j) mod N for
0 ≤ j ≤ N, and changes nothing. -/
def Obligations.CbRduReadsUnsignedOffsets : Prop :=
  (∀ (sel : BitVec 4) (j : BitVec 16), encode (.cbRdu sel j) = [j ++ 0x0#4 ++ sel ++ 0x11#8]) ∧
  ∀ (s : State) (j : BitVec 16),
    let a := s.arch
    (a.lifecycle = .config → ∀ sel, exec (.cbRdu sel j) s = .next (answered s a [0x00001103#32])) ∧
    (a.lifecycle ≠ .config → ∀ sel : BitVec 4, 3 ≤ sel.toNat →
      exec (.cbRdu sel j) s = .next (answered s a [0x00001107#32])) ∧
    (a.lifecycle ≠ .config → ArchInv a →
      (j.toNat ≤ 8 → ∃ v, a.raw.data[(a.raw.cur + j.toNat) % 8]? = some v ∧
        exec (.cbRdu 0#4 j) s = .next (answered s a [0x00021100#32, v.re, v.im])) ∧
      (8 < j.toNat → exec (.cbRdu 0#4 j) s = .next (answered s a [0x00001105#32])) ∧
      (j.toNat ≤ 3 → ∃ v, a.ih.data[(a.ih.cur + j.toNat) % 3]? = some v ∧
        exec (.cbRdu 1#4 j) s = .next (answered s a [0x00021100#32, v.re, v.im])) ∧
      (3 < j.toNat → exec (.cbRdu 1#4 j) s = .next (answered s a [0x00001105#32])) ∧
      (j.toNat ≤ a.syncN → ∃ v, a.eh.data[(a.eh.cur + j.toNat) % a.syncN]? = some v ∧
        exec (.cbRdu 2#4 j) s = .next (answered s a [0x00021100#32, v, 0#32])) ∧
      (a.syncN < j.toNat → exec (.cbRdu 2#4 j) s = .next (answered s a [0x00001105#32])))

/-- 41 R148: after at least N pushes, signed offset 0 reads the value pushed last and the unsigned offset j
the value pushed N - j pushes ago, whatever the buffer held before. -/
def Obligations.BufferKeepsTheLastPushes : Prop :=
  ∀ (α : Type) [Inhabited α] (n : Nat) (b : CBuf α) (vs : List α),
    0 < n → b.data.length = n → b.cur < n → n ≤ vs.length →
    let c := vs.foldl (fun b v => b.push n v) b
    c.rds n 0 = vs.getLast? ∧
    ∀ j, j < n → c.rdu n j = vs[vs.length - n + j]?

/-- 41 R141 to R143: a push fills the cursor's slot and moves the cursor; the slot each offset reads, the
offsets that read nothing, and the offsets that name one slot. -/
def Obligations.BufferOffsetsAgree : Prop :=
  ∀ (α : Type) [Inhabited α] (n : Nat) (b : CBuf α), 0 < n → b.data.length = n → b.cur < n →
    (∀ v, b.push n v = ⟨b.data.set b.cur v, if b.cur + 1 = n then 0 else b.cur + 1⟩) ∧
    (∀ k : Int, -(n : Int) ≤ k → k < (n : Int) →
      b.rds n k = b.data[(((b.cur : Int) - 1 + k) % (n : Int)).toNat]?) ∧
    (∀ j : Nat, j ≤ n → b.rdu n j = b.data[(b.cur + j) % n]?) ∧
    (∀ k : Int, b.rds n k = none ↔ ¬(-(n : Int) ≤ k ∧ k < (n : Int))) ∧
    (∀ j : Nat, b.rdu n j = none ↔ n < j) ∧
    b.rds n (-(n : Int)) = b.rds n 0 ∧
    (∀ k : Nat, 1 ≤ k → k < n → b.rds n (k : Int) = b.rdu n (k - 1)) ∧
    b.rdu n (n - 1) = b.rds n 0 ∧
    b.rdu n n = b.rdu n 0

/-! ## Phase clock -/

/-- 42 R162, R161, R160: PC_TICK adds RATE to PHASE, reduces the sum by TAU once where it reaches TAU and
answers the overrun. -/
def Obligations.PcTickAdvancesByRate : Prop :=
  encode .pcTick = [0x00000020#32] ∧
  ∀ s : State,
    let a := s.arch
    let p := fadd a.phase a.rate
    (a.lifecycle = .run → fge p 0x40C90FDB#32 = true →
      exec .pcTick s = .next (answered s { a with phase := fsub p 0x40C90FDB#32 }
        [0x00012010#32, fsub p 0x40C90FDB#32])) ∧
    (a.lifecycle = .run → fge p 0x40C90FDB#32 = false →
      exec .pcTick s = .next (answered s { a with phase := p } [0x00012000#32, 0#32])) ∧
    (a.lifecycle = .config → exec .pcTick s = .next (answered s a [0x00002003#32])) ∧
    (a.lifecycle = .fault → exec .pcTick s = .next (answered s a [0x00002004#32]))

/-- 42 R163, R160: PC_ADV adds any binary32 pattern to PHASE in the same way; a NaN operand or phase leaves
PHASE the canonical NaN and reports no overrun, and a sum of exactly TAU reports +0.0. -/
def Obligations.PcAdvAdvancesByDelta : Prop :=
  (∀ delta : Word, encode (.pcAdv delta) = [0x00001021#32, delta]) ∧
  ∀ (s : State) (delta : Word),
    let a := s.arch
    let p := fadd a.phase delta
    (a.lifecycle = .run → fge p 0x40C90FDB#32 = true →
      exec (.pcAdv delta) s = .next (answered s { a with phase := fsub p 0x40C90FDB#32 }
        [0x00012110#32, fsub p 0x40C90FDB#32])) ∧
    (a.lifecycle = .run → fge p 0x40C90FDB#32 = false →
      exec (.pcAdv delta) s = .next (answered s { a with phase := p } [0x00012100#32, 0#32])) ∧
    (a.lifecycle = .run → fisNaN a.phase = true ∨ fisNaN delta = true →
      exec (.pcAdv delta) s
        = .next (answered s { a with phase := 0x7FC00000#32 } [0x00012100#32, 0#32])) ∧
    (a.lifecycle = .run → p = 0x40C90FDB#32 →
      exec (.pcAdv delta) s = .next (answered s { a with phase := 0#32 } [0x00012110#32, 0#32])) ∧
    (a.lifecycle = .config → exec (.pcAdv delta) s = .next (answered s a [0x00002103#32])) ∧
    (a.lifecycle = .fault → exec (.pcAdv delta) s = .next (answered s a [0x00002104#32]))

/-- 42 R164 to R167: PC_SIN, PC_COS and PC_PHASOR answer two functions of PHASE alone, of which only the
values at +0.0 and at NaN and infinity are fixed, and change nothing. -/
def Obligations.SineCosineAndPhasor : Prop :=
  encode .pcSin = [0x00000022#32] ∧ encode .pcCos = [0x00000023#32] ∧
  encode .pcPhasor = [0x00000024#32] ∧
  ∃ sin cos : Word → Word,
    sin 0#32 = 0#32 ∧ cos 0#32 = 0x3F800000#32 ∧
    (∀ p, finite p = false → sin p = 0x7FC00000#32 ∧ cos p = 0x7FC00000#32) ∧
    ∀ s : State,
      let a := s.arch
      (a.lifecycle ≠ .config →
        exec .pcSin s = .next (answered s a [0x00012200#32, sin a.phase]) ∧
        exec .pcCos s = .next (answered s a [0x00012300#32, cos a.phase]) ∧
        exec .pcPhasor s = .next (answered s a [0x00022400#32, cos a.phase, sin a.phase])) ∧
      (a.lifecycle = .config →
        exec .pcSin s = .next (answered s a [0x00002203#32]) ∧
        exec .pcCos s = .next (answered s a [0x00002303#32]) ∧
        exec .pcPhasor s = .next (answered s a [0x00002403#32]))

/-- 42 R161, 47 R224: with PHASE below TAU and RATE in (0, TAU], PC_TICK leaves PHASE below TAU, and the
overrun it reports is in [0, TAU). -/
def Obligations.TickStaysBelowTau : Prop :=
  ∀ s t : State, s.arch.lifecycle = .run →
    flt s.arch.phase 0x40C90FDB#32 = true →
    fgt s.arch.rate 0x00000000#32 = true → fge 0x40C90FDB#32 s.arch.rate = true →
    exec .pcTick s = .next t →
    flt t.arch.phase 0x40C90FDB#32 = true ∧
    (t.rspPort = s.rspPort ++ [0x00012010#32, t.arch.phase] → fge t.arch.phase 0x00000000#32 = true)

/-- 40 R123, 42 R161: START's RATE is in (0, TAU], and is TAU for SPS = 2.0. -/
def Obligations.RateIsInRange : Prop :=
  ∀ s t : State, s.arch.lifecycle = .config → startLegal s.arch = true → exec .start s = .next t →
    fgt t.arch.rate 0x00000000#32 = true ∧ fge 0x40C90FDB#32 t.arch.rate = true ∧
    (s.arch.sps = 0x40000000#32 → t.arch.rate = 0x40C90FDB#32)

/-! ## Loop filter, interpolator, gain control, timing error -/

/-- 43 R183, R180: PI_UPDATE adds KI·e to INTEG and answers the new INTEG plus KP·e, without a bound. -/
def Obligations.PiUpdateFilters : Prop :=
  (∀ e : Word, encode (.piUpdate e) = [0x00001030#32, e]) ∧
  ∀ (s : State) (e : Word),
    let a := s.arch
    let integ := fadd a.integ (fmul a.ki e)
    (a.lifecycle = .run →
      exec (.piUpdate e) s = .next (answered s { a with integ := integ }
        [0x00013000#32, fadd integ (fmul a.kp e)])) ∧
    (a.lifecycle = .config → exec (.piUpdate e) s = .next (answered s a [0x00003003#32])) ∧
    (a.lifecycle = .fault → exec (.piUpdate e) s = .next (answered s a [0x00003004#32]))

/-- 43 R184, R180, 90 C7: the filter with one gain a zero, from INTEG = +0.0, for whatever gains the state
holds, not only those START derives. With KI = 0, a finite error leaves INTEG +0.0 and the output is KP·e up to
the sign of zero. With KP = 0, after any errors before it an update leaves in INTEG the sum, added from the
left, of the rounded products KI·e of all the errors, and that sum is its output (an infinite e has the product
KP·e = NaN, which is then the output). That sum, while finite, is c times the sum of the errors up to one
rounding for each product and each addition, and exactly where none of them rounds. `fvalue` counts units of
2^-149 as in the section Arithmetic; what a pattern stands for is the IEEE standard's (93 G1, log entry 7). -/
def Obligations.PiWithOneGainZero : Prop :=
  (∀ (s : State) (e : Word), s.arch.lifecycle = .run →
    fisZero s.arch.ki = true → s.arch.integ = 0x00000000#32 → finite e = true →
    exec (.piUpdate e) s = .next (answered s s.arch
      [0x00013000#32, if fmul s.arch.kp e = 0x80000000#32 then 0x00000000#32 else fmul s.arch.kp e])) ∧
  (∀ (s : State) (es : List Word) (e : Word), s.arch.lifecycle = .run →
    fisZero s.arch.kp = true → s.arch.integ = 0x00000000#32 →
    let t := runAll s (es.map .piUpdate)
    let sum := (es ++ [e]).foldl (fun sum x => fadd sum (fmul s.arch.ki x)) 0x00000000#32
    exec (.piUpdate e) t = .next (answered t { s.arch with integ := sum }
      [0x00013000#32, if fisInf e = true then 0x7FC00000#32 else sum])) ∧
  ∀ (c : Word) (es : List Word),
    let n := es.length
    let e := fun i => es.getD i 0x00000000#32
    let sum := fun k => (es.take k).foldl (fun sum x => fadd sum (fmul c x)) 0x00000000#32
    let exact := fvalue c * (es.map fvalue).sum
    finite (sum n) = true →
    2 ^ 24 * (fvalue (sum n) * 2 ^ 149 - exact).natAbs ≤
      ((List.range n).map fun i => (fvalue c * fvalue (e i)).natAbs + 2 ^ 172 +
        (fvalue (sum i) + fvalue (fmul c (e i))).natAbs * 2 ^ 149).sum ∧
    ((∀ i, i < n → fvalue (fmul c (e i)) * 2 ^ 149 = fvalue c * fvalue (e i) ∧
        fvalue (sum (i + 1)) = fvalue (sum i) + fvalue (fmul c (e i))) →
      fvalue (sum n) * 2 ^ 149 = exact)

/-- 44 R193, R191, R192: INTERP weighs the four newest samples with the cubic Lagrange weights at mu, in the
spec's order, and changes nothing; mu outside [0, 1) is BAD_OPERAND. -/
def Obligations.InterpWeighsTheNewestSamples : Prop :=
  (∀ mu : Word, encode (.interp mu) = [0x00001040#32, mu]) ∧
  ∀ (s : State) (mu : Word),
    let a := s.arch
    let mm1 := fsub mu 0x3F800000#32
    let mm2 := fsub mu 0x40000000#32
    let mp1 := fadd mu 0x3F800000#32
    let wA := fdiv (fmul (fmul mu mm1) mm2) 0xC0C00000#32
    let wB := fdiv (fmul (fmul mp1 mm1) mm2) 0x40000000#32
    let wC := fdiv (fmul (fmul mp1 mu) mm2) 0xC0000000#32
    let wD := fdiv (fmul (fmul mp1 mu) mm1) 0x40C00000#32
    let sum := fun w x y z : Word =>
      fadd (fadd (fadd (fmul wA w) (fmul wB x)) (fmul wC y)) (fmul wD z)
    let inRange := fge mu 0x00000000#32 = true ∧ flt mu 0x3F800000#32 = true
    (a.lifecycle ≠ .config → ArchInv a → inRange →
      ∃ A B C D : Cplx,
        a.raw.data[(a.raw.cur + 4) % 8]? = some A ∧ a.raw.data[(a.raw.cur + 5) % 8]? = some B ∧
        a.raw.data[(a.raw.cur + 6) % 8]? = some C ∧ a.raw.data[(a.raw.cur + 7) % 8]? = some D ∧
        exec (.interp mu) s = .next (answered s a
          [0x00024000#32, sum A.re B.re C.re D.re, sum A.im B.im C.im D.im])) ∧
    (a.lifecycle ≠ .config → ¬inRange →
      exec (.interp mu) s = .next (answered s a [0x00004007#32])) ∧
    (a.lifecycle = .config → exec (.interp mu) s = .next (answered s a [0x00004003#32]))

/-- 45 R201, R200: AGC_TICK updates the smoothed power and answers the sample divided by its square root,
whatever the values. -/
def Obligations.AgcTickNormalizes : Prop :=
  (∀ re im : Word, encode (.agcTick re im) = [0x00002050#32, re, im]) ∧
  ∀ (s : State) (re im : Word),
    let a := s.arch
    let p := fadd (fmul a.agcAlpha (fadd (fmul re re) (fmul im im))) (fmul a.agcOma a.agcP)
    (a.lifecycle = .run →
      exec (.agcTick re im) s = .next (answered s { a with agcP := p }
        [0x00025000#32, fdiv re (fsqrt p), fdiv im (fsqrt p)])) ∧
    (a.lifecycle = .config → exec (.agcTick re im) s = .next (answered s a [0x00005003#32])) ∧
    (a.lifecycle = .fault → exec (.agcTick re im) s = .next (answered s a [0x00005004#32]))

/-- 46 R211, R210: TED answers the Gardner error of the three interpolated samples, oldest first, and
changes nothing. -/
def Obligations.TedEstimatesTheTimingError : Prop :=
  encode .ted = [0x00000060#32] ∧
  ∀ s : State,
    let a := s.arch
    (a.lifecycle ≠ .config → ArchInv a →
      ∃ early onTime late : Cplx,
        a.ih.data[a.ih.cur]? = some early ∧ a.ih.data[(a.ih.cur + 1) % 3]? = some onTime ∧
        a.ih.data[(a.ih.cur + 2) % 3]? = some late ∧
        exec .ted s = .next (answered s a [0x00016000#32,
          fadd (fmul onTime.re (fsub early.re late.re)) (fmul onTime.im (fsub early.im late.im))])) ∧
    (a.lifecycle = .config → exec .ted s = .next (answered s a [0x00006003#32]))

/-! ## Symbol synchronizer -/

/-- 47 R223, R220 to R222: SS_TICK counts and pushes the sample and ticks the clock; on an overrun it
interpolates (as INTERP), estimates the timing error (as TED), filters it and applies the correction, and
then toggles GATE and emits on every second one, or diverges. -/
def Obligations.SsTickSteps : Prop :=
  (∀ re im : Word, encode (.ssTick re im) = [0x00002070#32, re, im]) ∧
  ∀ (s : State) (re im : Word),
    let a := s.arch
    let a1 := { a with sampleCount := a.sampleCount + 1#64
                       raw := ⟨a.raw.data.set a.raw.cur ⟨re, im⟩, (a.raw.cur + 1) % 8⟩ }
    let p := fadd a.phase a.rate
    let v := fsub p 0x40C90FDB#32
    let y := interpolate a1.raw (fdiv v 0x40C90FDB#32)
    let ih : CBuf Cplx := ⟨a.ih.data.set a.ih.cur y, (a.ih.cur + 1) % 3⟩
    let e := gardner ih
    let integ := fadd a.integ (fmul a.ki e)
    let q := fadd v (fadd integ (fmul a.kp e))
    (a.lifecycle = .run → fge p 0x40C90FDB#32 = false →
      exec (.ssTick re im) s = .next (answered s { a1 with phase := p } [0x00027000#32, 0#32, 0#32])) ∧
    (a.lifecycle = .run → fge p 0x40C90FDB#32 = true → fge q 0x40C90FDB#32 = false →
      exec (.ssTick re im) s = .next (answered s
        { a1 with ih := ih, integ := integ, phase := q, gate := !a.gate }
        (if a.gate = true then [0x00027010#32, y.re, y.im] else [0x00027000#32, 0#32, 0#32]))) ∧
    (a.lifecycle = .run → fge p 0x40C90FDB#32 = true → fge q 0x40C90FDB#32 = true →
      exec (.ssTick re im) s = .next (answered s
        { a1 with ih := ih, integ := integ, phase := fsub q 0x40C90FDB#32
                  lifecycle := .fault, faultCause := 9#4 }
        [0x00007009#32])) ∧
    (a.lifecycle = .config → exec (.ssTick re im) s = .next (answered s a [0x00007003#32])) ∧
    (a.lifecycle = .fault → exec (.ssTick re im) s = .next (answered s a [0x00007004#32]))

/-! ## Correlator and packetizer -/

/-- 48 R243, R241: CORR_TICK pushes a fresh count, adds 1 to the count of every hypothesis whose pattern bit
the symbol misses, and answers whether the oldest count is within THRESHOLD; it moves nothing else. -/
def Obligations.CorrTickCountsMismatches : Prop :=
  encode (.corrTick 0#16) = [0x00000080#32] ∧ encode (.corrTick 1#16) = [0x00010080#32] ∧
  (∀ imm : BitVec 16, imm.extractLsb' 1 15 ≠ 0#15 → decode [imm ++ 0x0080#16] = .error .reservedField) ∧
  ∀ (s : State) (b : Bool),
    let a := s.arch
    let n := a.syncN
    (a.lifecycle = .run → ArchInv a →
      ∃ eh : CBuf Word,
        exec (.corrTick (bitImm b)) s = .next (answered s { a with eh := eh }
          [if (eh.getS n (-((n - 1 : Nat) : Int))).toNat ≤ a.threshold.toNat
            then 0x00008020#32 else 0x00008000#32]) ∧
        eh.cur = (a.eh.cur + 1) % n ∧ eh.data.length = a.eh.data.length ∧
        (∀ i, i < n → eh.getS n (-(i : Int)) =
          (if i = 0 then 0#32 else a.eh.getS n (-((i - 1 : Nat) : Int))) +
          (if a.syncPat.getLsbD i = b then 0#32 else 1#32)) ∧
        (∀ j, n ≤ j → eh.data[j]? = a.eh.data[j]?)) ∧
    (a.lifecycle = .config →
      exec (.corrTick (bitImm b)) s = .next (answered s a [0x00008003#32])) ∧
    (a.lifecycle = .fault →
      exec (.corrTick (bitImm b)) s = .next (answered s a [0x00008004#32]))

/-- 48 R244, R242, R247: CORR_RESET gives every slot in use the count NOLOCK, leaves the cursor and answers
BIT = 0, since NOLOCK is above THRESHOLD. -/
def Obligations.CorrResetForgetsEveryHypothesis : Prop :=
  encode .corrReset = [0x00000081#32] ∧
  ∀ s : State,
    let a := s.arch
    (a.lifecycle = .run → ArchInv a →
      exec .corrReset s = .next (answered s
        { a with eh := ⟨List.replicate a.syncN a.nolock ++ a.eh.data.drop a.syncN, a.eh.cur⟩ }
        [0x00008100#32])) ∧
    (a.lifecycle = .config → exec .corrReset s = .next (answered s a [0x00008103#32])) ∧
    (a.lifecycle = .fault → exec .corrReset s = .next (answered s a [0x00008104#32]))

/-- 48 R241: after N symbols or more, the oldest count is the Hamming distance between the pattern and the
last N symbols, and CORR_TICK answers whether it is within THRESHOLD, whatever the counts were before. -/
def Obligations.CorrelatorCountsTheHammingDistance : Prop :=
  ∀ (s : State) (symbols : List Bool),
    s.arch.lifecycle = .run → ArchInv s.arch → s.arch.syncN ≤ symbols.length →
    let t := runAll s (symbols.map fun b => .corrTick (bitImm b))
    (∃ v, t.arch.eh.data[t.arch.eh.cur]? = some v ∧ v.toNat = hammingDistance s.arch symbols) ∧
    t.rspPort.getLast? = some
      (if hammingDistance s.arch symbols ≤ s.arch.threshold.toNat
        then 0x00008020#32 else 0x00008000#32)

/-- 48 R246, R245: PKT_TICK in Scanning steps the correlator as CORR_TICK does, and on a detection resets it
and begins a capture; in Capturing it stores the symbol, and with the last one emits the packet. -/
def Obligations.PktTickScansAndCaptures : Prop :=
  encode (.pktTick 0#16) = [0x00000090#32] ∧ encode (.pktTick 1#16) = [0x00010090#32] ∧
  (∀ imm : BitVec 16, imm.extractLsb' 1 15 ≠ 0#15 → decode [imm ++ 0x0090#16] = .error .reservedField) ∧
  ∀ (s : State) (b : Bool),
    let a := s.arch
    (a.lifecycle = .run → ArchInv a → a.pstate = .scanning →
      ∃ (eh : CBuf Word) (lock : Bool),
        exec (.corrTick (bitImm b)) s = .next (answered s { a with eh := eh }
          [if lock = true then 0x00008020#32 else 0x00008000#32]) ∧
        exec (.pktTick (bitImm b)) s = .next (answered s
          (if lock = true then
            { a with
              eh := ⟨List.replicate a.syncN a.nolock ++ eh.data.drop a.syncN, eh.cur⟩
              pstate := .capturing, capidx := 0, pktAvail := false }
          else { a with eh := eh })
          [0x00009000#32])) ∧
    (a.lifecycle = .run → ArchInv a → a.pstate = .capturing →
      ∃ payload : BitVec 8192,
        (∀ j, payload.getLsbD j = if j = a.capidx then b else a.payload.getLsbD j) ∧
        (a.capidx + 1 < a.pktL →
          exec (.pktTick (bitImm b)) s = .next (answered s
            { a with payload := payload, capidx := a.capidx + 1 } [0x00009000#32])) ∧
        (a.capidx + 1 = a.pktL →
          exec (.pktTick (bitImm b)) s = .next (answered s
            { a with payload := payload, capidx := 0, pstate := .scanning, pktAvail := true
                     packetCount := a.packetCount + 1#32 }
            [0x00009040#32]))) ∧
    (a.lifecycle = .config →
      exec (.pktTick (bitImm b)) s = .next (answered s a [0x00009003#32])) ∧
    (a.lifecycle = .fault →
      exec (.pktTick (bitImm b)) s = .next (answered s a [0x00009004#32]))

/-- 48 R249: from a legal CONFIG with THRESHOLD = 0, START and then the syncword and L arbitrary symbols emit
exactly one packet, with the last symbol, and it equals those L symbols; fewer than N + L further symbols emit
none. -/
def Obligations.PacketizerEndToEnd : Prop :=
  ∀ (s : State) (payload more : List Bool),
    s.arch.lifecycle = .config → startLegal s.arch = true → s.arch.threshold = 0#32 →
    payload.length = s.arch.pktL → more.length < s.arch.syncN + s.arch.pktL →
    let syncword := (List.range s.arch.syncN).map fun i => s.arch.syncPat.getLsbD i
    let tick := fun b : Bool => Instr.pktTick (bitImm b)
    let t := runAll s (.start :: (syncword ++ payload).map tick)
    t.rspPort = s.rspPort ++ 0x00000200#32 ::
      (List.replicate (s.arch.syncN + s.arch.pktL - 1) 0x00009000#32 ++ [0x00009040#32]) ∧
    t.arch.packetCount = 1#32 ∧ t.arch.pktAvail = true ∧
    (∀ i, i < s.arch.pktL → t.arch.payload.getLsbD i = payload.getD i false) ∧
    (runAll t (more.map tick)).rspPort = t.rspPort ++ List.replicate more.length 0x00009000#32

/-- 48 R248: PKT_RDW answers word w of the payload, whose bit b is PAYLOAD[32w + b] below L and 0 from there,
and changes nothing; w ≥ ceil(L / 32) is INDEX_RANGE. -/
def Obligations.PktRdwReadsThePayload : Prop :=
  (∀ w : BitVec 16, encode (.pktRdw w) = [w ++ 0x0091#16]) ∧
  ∀ (s : State) (w : BitVec 16),
    let a := s.arch
    (a.lifecycle ≠ .config → w.toNat < (a.pktL + 31) / 32 →
      ∃ v : Word, exec (.pktRdw w) s = .next (answered s a [0x00019100#32, v]) ∧
        ∀ b, b < 32 → v.getLsbD b =
          (decide (32 * w.toNat + b < a.pktL) && a.payload.getLsbD (32 * w.toNat + b))) ∧
    (a.lifecycle ≠ .config → (a.pktL + 31) / 32 ≤ w.toNat →
      exec (.pktRdw w) s = .next (answered s a [0x00009105#32])) ∧
    (a.lifecycle = .config → exec (.pktRdw w) s = .next (answered s a [0x00009103#32]))

/-! ## Descrambler and receive chain -/

/-- 49 R261, R260: LFSR_NEXT answers the low bit and shifts the state right, with the parity of the tapped
bits at the top; 49 R262: LFSR_SEED restarts it. A zero state stays zero. -/
def Obligations.DescramblerStepsAndRestarts : Prop :=
  encode .lfsrNext = [0x000000A0#32] ∧ encode .lfsrSeed = [0x000000A1#32] ∧
  ∀ s : State,
    let a := s.arch
    let odd := (List.range 8).countP (fun i => (a.lfsr &&& a.lfsrPoly).getLsbD i) % 2 = 1
    let next := (if odd then 1#1 else 0#1) ++ a.lfsr.extractLsb' 1 7
    (a.lifecycle = .run →
      exec .lfsrNext s = .next (answered s { a with lfsr := next }
        [if a.lfsr.getLsbD 0 = true then 0x0000A020#32 else 0x0000A000#32]) ∧
      exec .lfsrSeed s = .next (answered s { a with lfsr := a.lfsrSeed } [0x0000A100#32])) ∧
    (a.lfsr = 0#8 → next = 0#8) ∧
    (a.lifecycle = .config →
      exec .lfsrNext s = .next (answered s a [0x0000A003#32]) ∧
      exec .lfsrSeed s = .next (answered s a [0x0000A103#32])) ∧
    (a.lifecycle = .fault →
      exec .lfsrNext s = .next (answered s a [0x0000A004#32]) ∧
      exec .lfsrSeed s = .next (answered s a [0x0000A104#32]))

/-- 49 R264, R263: DESCRAMBLE XORs payload bit i, i < L, with the output of the i-th step from the seed, leaves
the other bits, and leaves in LFSR the state after L steps from the seed. -/
def Obligations.DescrambleXorsTheSeedStream : Prop :=
  encode .descramble = [0x000000A2#32] ∧
  ∀ s : State,
    let a := s.arch
    let at_ := fun i : Nat => (fun l : Byte => lfsrShift a.lfsrPoly l)^[i] a.lfsrSeed
    (a.lifecycle = .run →
      ∃ payload : BitVec 8192,
        exec .descramble s
          = .next (answered s { a with lfsr := at_ a.pktL, payload := payload } [0x0000A200#32]) ∧
        ∀ i, i < 8192 → payload.getLsbD i =
          if i < a.pktL then (a.payload.getLsbD i ^^ (at_ i).getLsbD 0) else a.payload.getLsbD i) ∧
    (a.lifecycle = .config → exec .descramble s = .next (answered s a [0x0000A203#32])) ∧
    (a.lifecycle = .fault → exec .descramble s = .next (answered s a [0x0000A204#32]))

/-- 49 R263, R264: a second DESCRAMBLE undoes the first. -/
def Obligations.DescrambleTwiceRestores : Prop :=
  ∀ s : State, (runAll s [.descramble, .descramble]).arch.payload = s.arch.payload

/-- 49 R270: descrambling is independent of the descrambler's state before it, and so of any LFSR_NEXT: a
changed LFSR changes nothing that DESCRAMBLE does, and nothing of RX_TICK but an LFSR it does not reseed. -/
def Obligations.DescramblingIgnoresTheOldLfsr : Prop :=
  ∀ (s : State) (l : Byte),
    let s' := s.withArch { s.arch with lfsr := l }
    (s.arch.lifecycle = .run → exec .descramble s' = exec .descramble s) ∧
    (∀ (re im : Word) (t t' : State),
      exec (.rxTick re im) s = .next t → exec (.rxTick re im) s' = .next t' →
      t'.rspPort = t.rspPort ∧ { t'.arch with lfsr := t.arch.lfsr } = t.arch)

/-- 49 R272, R271, R273: RX_TICK is SS_TICK of the sample, then PKT_TICK of the sliced symbol where one is
emitted, then DESCRAMBLE and the latch of the sample's index where a packet is emitted, with one response.
Where the clock does not overrun, its next state is written out. -/
def Obligations.RxTickRunsTheChain : Prop :=
  (∀ re im : Word, encode (.rxTick re im) = [0x000020B0#32, re, im]) ∧
  ∀ (s : State) (re im : Word),
    let a := s.arch
    (a.lifecycle = .run →
      (∃ a1, exec (.ssTick re im) s = .next (answered s a1 [0x00007009#32]) ∧
        exec (.rxTick re im) s = .next (answered s a1 [0x0000B009#32])) ∨
      (∃ a1, exec (.ssTick re im) s = .next (answered s a1 [0x00027000#32, 0#32, 0#32]) ∧
        exec (.rxTick re im) s = .next (answered s a1 [0x0002B000#32, 0#32, 0#32])) ∨
      (∃ a1 a2 yre yim,
        let b := fgt yre 0x00000000#32
        exec (.ssTick re im) s = .next (answered s a1 [0x00027010#32, yre, yim]) ∧
        exec (.pktTick (bitImm b)) (s.withArch a1)
          = .next (answered (s.withArch a1) a2 [0x00009000#32]) ∧
        exec (.rxTick re im) s = .next (answered s a2
          [if b = true then 0x0002B030#32 else 0x0002B010#32, yre, yim])) ∨
      (∃ a1 a2 a3 yre yim,
        let b := fgt yre 0x00000000#32
        exec (.ssTick re im) s = .next (answered s a1 [0x00027010#32, yre, yim]) ∧
        exec (.pktTick (bitImm b)) (s.withArch a1)
          = .next (answered (s.withArch a1) a2 [0x00009040#32]) ∧
        exec .descramble (s.withArch a2) = .next (answered (s.withArch a2) a3 [0x0000A200#32]) ∧
        exec (.rxTick re im) s = .next (answered s { a3 with pktSampleIndex := a.sampleCount }
          [if b = true then 0x0002B070#32 else 0x0002B050#32, yre, yim]))) ∧
    (a.lifecycle = .run → fge (fadd a.phase a.rate) 0x40C90FDB#32 = false →
      exec (.rxTick re im) s = .next (answered s
        { a with sampleCount := a.sampleCount + 1#64
                 raw := ⟨a.raw.data.set a.raw.cur ⟨re, im⟩, (a.raw.cur + 1) % 8⟩
                 phase := fadd a.phase a.rate }
        [0x0002B000#32, 0#32, 0#32])) ∧
    (a.lifecycle = .config → exec (.rxTick re im) s = .next (answered s a [0x0000B003#32])) ∧
    (a.lifecycle = .fault → exec (.rxTick re im) s = .next (answered s a [0x0000B004#32]))

/-! ## Arithmetic (00 R10)

A finite value x is `fvalue x` units of 2^-149. (2^25 - 1) · 2^252 units is the least magnitude that rounds to
infinity: the largest finite value and half of its last place. What a pattern stands for, that bound included, is
the IEEE standard's (93 G1; PRESUMED, log entry 7). -/

/-- 00 R10: a finite sum is the value nearest to the exact sum, the one with an even last bit of two equally
near. fsub is fadd of the negated operand. From the IEEE standard, which 00 R10 refers to and the spec does not
hold (93 G1), are what a pattern stands for, the bound from which on a sum overflows, to the infinity of its
sign, and the sign of an exact zero, +0.0 but for two negative zeros: PRESUMED, log entry 7. -/
def Obligations.AddRoundsToNearestEven : Prop :=
  ∀ x y : Word, finite x = true → finite y = true →
    let exact := fvalue x + fvalue y
    let r := fadd x y
    fsub x y = fadd x (y ^^^ 0x80000000#32) ∧
    (finite r = true ↔ exact.natAbs < (2 ^ 25 - 1) * 2 ^ 252) ∧
    (finite r = false → r = if exact < 0 then 0xFF800000#32 else 0x7F800000#32) ∧
    (exact = 0 → r = if fsign x = true ∧ fsign y = true then 0x80000000#32 else 0x00000000#32) ∧
    (finite r = true → (exact < 0 → fsign r = true) ∧ (0 < exact → fsign r = false)) ∧
    (finite r = true → ∀ z : Word, finite z = true →
      (fvalue r - exact).natAbs ≤ (fvalue z - exact).natAbs ∧
      ((fvalue r - exact).natAbs = (fvalue z - exact).natAbs →
        fvalue z = fvalue r ∨ r.getLsbD 0 = false))

/-- 00 R10: a finite product and a finite quotient are the values nearest to the exact ones, ties to the even
last bit. From the IEEE standard, which 00 R10 refers to and the spec does not hold (93 G1), are what a pattern
stands for, the bound from which on they overflow, and their sign, that of the operands' signs, for zero and
infinite results too: PRESUMED, log entry 7. -/
def Obligations.MulAndDivRoundToNearestEven : Prop :=
  ∀ x y : Word, finite x = true → finite y = true →
    let neg := fsign x != fsign y
    let inf := if neg = true then 0xFF800000#32 else 0x7F800000#32
    (let exact := fvalue x * fvalue y
     let r := fmul x y
     fsign r = neg ∧
     (finite r = true ↔ exact.natAbs < (2 ^ 25 - 1) * 2 ^ 252 * 2 ^ 149) ∧
     (finite r = false → r = inf) ∧
     (finite r = true → ∀ z : Word, finite z = true →
       (fvalue r * 2 ^ 149 - exact).natAbs ≤ (fvalue z * 2 ^ 149 - exact).natAbs ∧
       ((fvalue r * 2 ^ 149 - exact).natAbs = (fvalue z * 2 ^ 149 - exact).natAbs →
         fvalue z = fvalue r ∨ r.getLsbD 0 = false))) ∧
    (fvalue y ≠ 0 →
     let exact := fvalue x * 2 ^ 149
     let r := fdiv x y
     fsign r = neg ∧
     (finite r = true ↔ exact.natAbs < (2 ^ 25 - 1) * 2 ^ 252 * (fvalue y).natAbs) ∧
     (finite r = false → r = inf) ∧
     (finite r = true → ∀ z : Word, finite z = true →
       (fvalue r * fvalue y - exact).natAbs ≤ (fvalue z * fvalue y - exact).natAbs ∧
       ((fvalue r * fvalue y - exact).natAbs = (fvalue z * fvalue y - exact).natAbs →
         fvalue z = fvalue r ∨ r.getLsbD 0 = false)))

/-- 00 R10: the square root of a positive finite value is finite, positive and the value nearest to the exact
root: the midpoint to any other value does not lie between them. -/
def Obligations.SqrtRoundsToNearest : Prop :=
  ∀ x : Word, finite x = true → 0 < fvalue x →
    let r := fsqrt x
    finite r = true ∧ fsign r = false ∧
    ∀ z : Word, finite z = true → 0 ≤ fvalue z →
      (fvalue r < fvalue z → 4 * (fvalue x * 2 ^ 149) ≤ (fvalue r + fvalue z) ^ 2) ∧
      (fvalue z < fvalue r → (fvalue r + fvalue z) ^ 2 ≤ 4 * (fvalue x * 2 ^ 149))

/-- 00 R10: the comparisons order finite values by their exact value (so +0 and -0 are equal), put the
infinities outside them, and are false with a NaN. -/
def Obligations.ComparisonsOrderByValue : Prop :=
  (∀ x y : Word, finite x = true → finite y = true →
    (fge x y = true ↔ fvalue y ≤ fvalue x) ∧ (fgt x y = true ↔ fvalue y < fvalue x) ∧
    (flt x y = true ↔ fvalue x < fvalue y)) ∧
  (∀ x : Word, finite x = true →
    fgt 0x7F800000#32 x = true ∧ flt 0xFF800000#32 x = true) ∧
  (∀ x y : Word, fisNaN x = true ∨ fisNaN y = true →
    fge x y = false ∧ fgt x y = false ∧ flt x y = false)

/-- 00 R10: every NaN result is the canonical NaN, and a NaN operand gives it. The other special results are
those of the IEEE standard (93 G1, log entry 7): an invalid operation gives NaN, a non-zero value over zero an
infinity, a zero under the root itself. -/
def Obligations.NonFiniteResults : Prop :=
  (∀ x y : Word,
    (fisNaN (fadd x y) = true → fadd x y = 0x7FC00000#32) ∧
    (fisNaN (fsub x y) = true → fsub x y = 0x7FC00000#32) ∧
    (fisNaN (fmul x y) = true → fmul x y = 0x7FC00000#32) ∧
    (fisNaN (fdiv x y) = true → fdiv x y = 0x7FC00000#32) ∧
    (fisNaN (fsqrt x) = true → fsqrt x = 0x7FC00000#32)) ∧
  (∀ x y : Word, fisNaN x = true ∨ fisNaN y = true →
    fadd x y = 0x7FC00000#32 ∧ fsub x y = 0x7FC00000#32 ∧ fmul x y = 0x7FC00000#32 ∧
    fdiv x y = 0x7FC00000#32) ∧
  (∀ x : Word, fisNaN x = true → fsqrt x = 0x7FC00000#32) ∧
  (∀ x y : Word, fisInf x = true → finite y = true →
    fadd x y = x ∧ fadd y x = x ∧ fsub x y = x ∧ fsub y x = x ^^^ 0x80000000#32 ∧
    fdiv x y = (if fsign x = fsign y then 0x7F800000#32 else 0xFF800000#32) ∧
    fdiv y x = (if fsign x = fsign y then 0x00000000#32 else 0x80000000#32) ∧
    fmul x y = (if fisZero y = true then 0x7FC00000#32
      else if fsign x = fsign y then 0x7F800000#32 else 0xFF800000#32)) ∧
  (∀ x y : Word, fisInf x = true → fisInf y = true →
    fadd x y = (if fsign x = fsign y then x else 0x7FC00000#32) ∧ fdiv x y = 0x7FC00000#32 ∧
    fmul x y = (if fsign x = fsign y then 0x7F800000#32 else 0xFF800000#32)) ∧
  (∀ x y : Word, finite x = true → fisZero y = true →
    fdiv x y = (if fisZero x = true then 0x7FC00000#32
      else if fsign x = fsign y then 0x7F800000#32 else 0xFF800000#32)) ∧
  (∀ x : Word, fisZero x = true → fsqrt x = x) ∧
  (∀ x : Word, fisNaN x = false → fisZero x = false → fsign x = true → fsqrt x = 0x7FC00000#32) ∧
  fsqrt 0x7F800000#32 = 0x7F800000#32
end

