-- ==== Sys2Proof/Laws/Binary32.lean ====
section
/-! SUPPORT. Facts about the binary32 arithmetic that later proofs cite instead of unfolding it:
packing, rounding (half to even, monotone, exact on representable values, its error), comparisons, the
integer square root, sums and products that are finite, a zero added. -/

namespace Sys2Proof.Machine

/-! ## Packing -/

theorem fpack_toNat (neg : Bool) {m : Nat} (h : m < 2 ^ 31) :
    (fpack neg m).toNat = (if neg then 2 ^ 31 + m else m) := by
  unfold fpack
  rw [BitVec.toNat_ofNat]
  apply Nat.mod_eq_of_lt
  split <;> omega

@[simp] theorem fmag_fpack (neg : Bool) {m : Nat} (h : m < 2 ^ 31) : fmag (fpack neg m) = m := by
  unfold fmag
  rw [fpack_toNat neg h]
  split <;> omega

@[simp] theorem fsign_fpack (neg : Bool) {m : Nat} (h : m < 2 ^ 31) :
    fsign (fpack neg m) = neg := by
  unfold fsign
  rw [BitVec.msb_eq_decide, fpack_toNat neg h]
  cases neg
  · simp; omega
  · simp

theorem fmag_lt (x : Word) : fmag x < 2 ^ 31 := Nat.mod_lt _ (by decide)

/-- A pattern is its sign and its magnitude. -/
theorem fpack_eta (x : Word) : fpack (fsign x) (fmag x) = x := by
  have hx := x.isLt
  apply BitVec.eq_of_toNat_eq
  rw [fpack_toNat _ (fmag_lt x)]
  unfold fsign fmag
  rw [BitVec.msb_eq_decide]
  by_cases h : 2 ^ 31 ≤ x.toNat
  · rw [if_pos (by simpa using h)]; omega
  · rw [if_neg (by simpa using h)]; omega

/-- A pattern is a NaN, an infinity or finite. -/
theorem fclass (x : Word) :
    (fisNaN x = true ∧ fisInf x = false ∧ finite x = false) ∨
    (fisNaN x = false ∧ fisInf x = true ∧ finite x = false) ∨
    (fisNaN x = false ∧ fisInf x = false ∧ finite x = true) := by
  unfold fisNaN fisInf finite
  rcases Nat.lt_trichotomy (fmag x) infMag with h | h | h
  · exact .inr (.inr (by simp [h]; omega))
  · exact .inr (.inl (by simp [h]))
  · exact .inl (by simp [h]; omega)

theorem infMag_lt : infMag < 2 ^ 31 := by decide

/-- Packing a magnitude up to infinity gives no NaN. -/
theorem fisNaN_fpack (neg : Bool) {m : Nat} (h : m ≤ infMag) : fisNaN (fpack neg m) = false := by
  have : m < 2 ^ 31 := lt_of_le_of_lt h infMag_lt
  simp only [fisNaN, fmag_fpack neg this, decide_eq_false_iff_not]
  omega

/-! ## Rounding half to even -/

/-- The rounded quotient is at most `m` exactly when the fraction is below `m + 1/2`, or at it with `m`
even. -/
theorem roundHalfEven_le_iff {n d m : Nat} (hd : 0 < d) :
    roundHalfEven n d ≤ m ↔ 2 * n < (2 * m + 1) * d ∨ (2 * n = (2 * m + 1) * d ∧ m % 2 = 0) := by
  have hn := Nat.div_add_mod n d
  have hr := Nat.mod_lt n hd
  generalize n / d = q at *
  have key : roundHalfEven n d =
      (if 2 * (n % d) < d then q else if d < 2 * (n % d) then q + 1 else q + q % 2) := by
    unfold roundHalfEven
    have : n / d = q := by
      rw [← hn, Nat.mul_add_div hd]; simp [Nat.div_eq_of_lt hr]
    rw [this]
  rw [key]
  generalize n % d = r at *
  subst hn
  rcases Nat.lt_trichotomy q m with h | h | h
  · obtain ⟨e, rfl⟩ : ∃ e, m = q + 1 + e := ⟨m - q - 1, by omega⟩
    have e1 : (2 * (q + 1 + e) + 1) * d = 2 * (d * q) + 3 * d + 2 * (d * e) := by ring
    constructor
    · intro _; left; rw [e1]; omega
    · intro _; split
      · omega
      · split <;> omega
  · subst h
    have e1 : (2 * q + 1) * d = 2 * (d * q) + d := by ring
    rw [e1]
    split
    · constructor
      · intro _; left; omega
      · intro _; omega
    · split
      · constructor
        · intro h; omega
        · rintro (h | ⟨h, -⟩) <;> omega
      · constructor
        · intro h; right; exact ⟨by omega, by omega⟩
        · rintro (h | ⟨h, h'⟩) <;> omega
  · obtain ⟨e, rfl⟩ : ∃ e, q = m + 1 + e := ⟨q - m - 1, by omega⟩
    have e1 : 2 * (d * (m + 1 + e) + r) = (2 * m + 1) * d + d + 2 * (d * e) + 2 * r := by ring
    rw [e1]
    constructor
    · intro h
      exfalso
      revert h
      split
      · omega
      · split <;> omega
    · rintro (h | ⟨h, -⟩) <;> omega

/-- Rounding keeps the order of fractions. -/
theorem roundHalfEven_mono {n d n' d' : Nat} (hd : 0 < d) (hd' : 0 < d') (h : n * d' ≤ n' * d) :
    roundHalfEven n d ≤ roundHalfEven n' d' := by
  rw [roundHalfEven_le_iff hd]
  have h' := (roundHalfEven_le_iff (n := n') (m := roundHalfEven n' d') hd').mp le_rfl
  generalize roundHalfEven n' d' = m at *
  rcases Nat.lt_trichotomy (2 * n) ((2 * m + 1) * d) with hlt | heq | hgt
  · exact .inl hlt
  · rcases h' with h' | h'
    · exfalso
      have h1 : (2 * m + 1) * d * d' = 2 * (n * d') := by rw [← heq]; ring
      have h2 : 2 * n' * d < (2 * m + 1) * d' * d := Nat.mul_lt_mul_of_pos_right h' hd
      have h3 : (2 * m + 1) * d' * d = (2 * m + 1) * d * d' := by ring
      have h4 : 2 * n' * d = 2 * (n' * d) := by ring
      omega
    · exact .inr ⟨heq, h'.2⟩
  · exfalso
    have h1 : (2 * m + 1) * d * d' < 2 * n * d' := Nat.mul_lt_mul_of_pos_right hgt hd'
    have h5 : 2 * n' * d ≤ (2 * m + 1) * d' * d :=
      Nat.mul_le_mul_right d (by rcases h' with h' | h' <;> omega)
    have h3 : (2 * m + 1) * d' * d = (2 * m + 1) * d * d' := by ring
    have h4 : 2 * n' * d = 2 * (n' * d) := by ring
    have h6 : 2 * n * d' = 2 * (n * d') := by ring
    omega

/-- A whole fraction rounds to itself. -/
theorem roundHalfEven_exact (m : Nat) {d : Nat} (hd : 0 < d) : roundHalfEven (m * d) d = m := by
  unfold roundHalfEven
  simp [Nat.mul_div_cancel m hd, hd]

/-! ## Rounding to a pattern -/

theorem roundMag_le (num den : Nat) : roundMag num den ≤ infMag := Nat.min_le_right _ _

theorem fisNaN_fpack_roundMag (neg : Bool) (num den : Nat) :
    fisNaN (fpack neg (roundMag num den)) = false := fisNaN_fpack neg (roundMag_le num den)

/-- A significand of 24 bits at most: the fraction over `den * 2 ^ k` rounds to at most 2^24. -/
theorem significand_le {num den : Nat} (hd : 0 < den) :
    roundHalfEven num (den * 2 ^ dropBits (num / den)) ≤ 2 ^ 24 := by
  have hpos : 0 < den * 2 ^ dropBits (num / den) := Nat.mul_pos hd (Nat.two_pow_pos _)
  have hq : num / den < 2 ^ (24 + dropBits (num / den)) := by
    refine lt_of_lt_of_le (Nat.lt_log2_self) ?_
    apply Nat.pow_le_pow_right (by decide)
    unfold dropBits; omega
  have hn : num < den * 2 ^ (24 + dropBits (num / den)) := by
    have h1 := Nat.lt_mul_div_succ num hd
    have h2 : den * (num / den + 1) ≤ den * 2 ^ (24 + dropBits (num / den)) :=
      Nat.mul_le_mul_left den hq
    omega
  rw [roundHalfEven_le_iff hpos]
  left
  have e : den * 2 ^ (24 + dropBits (num / den)) = 2 ^ 24 * (den * 2 ^ dropBits (num / den)) := by
    rw [Nat.pow_add]; ring
  have e2 : (2 * 2 ^ 24 + 1) * (den * 2 ^ dropBits (num / den))
      = 2 * (2 ^ 24 * (den * 2 ^ dropBits (num / den))) + den * 2 ^ dropBits (num / den) := by ring
  omega

/-- With bits dropped the significand is normal: at least 2^23. -/
theorem significand_ge {num den : Nat} (hd : 0 < den) (hk : 0 < dropBits (num / den)) :
    2 ^ 23 ≤ roundHalfEven num (den * 2 ^ dropBits (num / den)) := by
  have hpos : 0 < den * 2 ^ dropBits (num / den) := Nat.mul_pos hd (Nat.two_pow_pos _)
  have hq0 : num / den ≠ 0 := by
    intro h; rw [h] at hk; simp [dropBits] at hk
  have hq : 2 ^ (23 + dropBits (num / den)) ≤ num / den := by
    refine le_trans (Nat.pow_le_pow_right (by decide) ?_) (Nat.log2_self_le hq0)
    unfold dropBits at *; omega
  have hn : den * 2 ^ (23 + dropBits (num / den)) ≤ num :=
    le_trans (Nat.mul_le_mul_left den hq) (Nat.mul_div_le num den)
  have h1 : 2 ^ 23 * (den * 2 ^ dropBits (num / den)) ≤ num := by
    refine le_trans (le_of_eq ?_) hn
    rw [Nat.pow_add]; ring
  calc 2 ^ 23 = roundHalfEven (2 ^ 23 * (den * 2 ^ dropBits (num / den)))
        (den * 2 ^ dropBits (num / den)) := (roundHalfEven_exact _ hpos).symm
    _ ≤ _ := roundHalfEven_mono hpos hpos (Nat.mul_le_mul_right _ h1)

/-- Rounding keeps the order of fractions. -/
theorem roundMag_mono {n d n' d' : Nat} (hd : 0 < d) (hd' : 0 < d') (h : n * d' ≤ n' * d) :
    roundMag n d ≤ roundMag n' d' := by
  have hq : n / d ≤ n' / d' := by
    rw [Nat.le_div_iff_mul_le hd']
    have h1 : n / d * d' * d ≤ n' * d := by
      calc n / d * d' * d = (n / d * d) * d' := by ring
        _ ≤ n * d' := Nat.mul_le_mul_right _ (Nat.div_mul_le_self n d)
        _ ≤ n' * d := h
    exact Nat.le_of_mul_le_mul_right h1 hd
  have hk : dropBits (n / d) ≤ dropBits (n' / d') := by
    unfold dropBits
    have : (n / d).log2 ≤ (n' / d').log2 := by
      rcases Nat.eq_zero_or_pos (n / d) with h0 | h0
      · simp [h0]
      · rw [Nat.le_log2 (by omega)]
        exact le_trans (Nat.log2_self_le (by omega)) hq
    omega
  unfold roundMag
  apply min_le_min_right
  rcases Nat.lt_or_ge (dropBits (n / d)) (dropBits (n' / d')) with hlt | hge
  · have h1 := significand_le (num := n) hd
    have h2 := significand_ge (num := n') hd' (by omega)
    omega
  · have he : dropBits (n / d) = dropBits (n' / d') := by omega
    rw [he]
    apply Nat.add_le_add_left
    apply roundHalfEven_mono (Nat.mul_pos hd (Nat.two_pow_pos _)) (Nat.mul_pos hd' (Nat.two_pow_pos _))
    calc n * (d' * 2 ^ dropBits (n' / d')) = n * d' * 2 ^ dropBits (n' / d') := by ring
      _ ≤ n' * d * 2 ^ dropBits (n' / d') := Nat.mul_le_mul_right _ h
      _ = n' * (d * 2 ^ dropBits (n' / d')) := by ring

/-- A representable magnitude rounds to its own pattern. -/
theorem roundMag_magUnits {m : Nat} (h : m < infMag) : roundMag (magUnits m) 1 = m := by
  have hdm := Nat.div_add_mod m (2 ^ 23)
  have hf := Nat.mod_lt m (show 0 < 2 ^ 23 by decide)
  unfold roundMag magUnits
  simp only [Nat.div_one, Nat.one_mul]
  generalize m / 2 ^ 23 = e at *
  generalize m % 2 ^ 23 = f at *
  split
  · next h0 =>
    subst h0
    have hk : dropBits f = 0 := by
      unfold dropBits
      rcases Nat.eq_zero_or_pos f with rfl | hf0
      · rfl
      · have : f.log2 < 23 := (Nat.log2_lt (by omega)).mpr hf
        omega
    rw [hk]
    have := roundHalfEven_exact f (d := 1) (by decide)
    simp only [Nat.mul_one] at this
    simp only [Nat.pow_zero, this]
    omega
  · next h0 =>
    have hk : dropBits ((2 ^ 23 + f) * 2 ^ (e - 1)) = e - 1 := by
      unfold dropBits
      have h1 : ((2 ^ 23 + f) * 2 ^ (e - 1)).log2 = 23 + (e - 1) := by
        rw [Nat.log2_eq_iff (Nat.mul_ne_zero (by omega) (Nat.two_pow_pos _).ne')]
        constructor
        · rw [Nat.pow_add]; exact Nat.mul_le_mul_right _ (by omega)
        · rw [show 23 + (e - 1) + 1 = 24 + (e - 1) by omega, Nat.pow_add]
          exact Nat.mul_lt_mul_of_pos_right (by omega) (Nat.two_pow_pos _)
      omega
    rw [hk, roundHalfEven_exact _ (Nat.two_pow_pos _)]
    omega

/-- Larger magnitude patterns stand for larger magnitudes. -/
theorem magUnits_lt {m m' : Nat} (h : m < m') (h' : m' < infMag) : magUnits m < magUnits m' := by
  by_contra hc
  have := roundMag_mono (n := magUnits m') (d := 1) (n' := magUnits m) (d' := 1) (by decide)
    (by decide) (by omega)
  rw [roundMag_magUnits h', roundMag_magUnits (lt_trans h h')] at this
  omega

/-! ## Exact values -/

theorem roundInt_pos {z : Bool} {v : Nat} (h : 0 < v) :
    roundInt z (v : Int) = fpack false (roundMag v 1) := by
  unfold roundInt
  rw [if_neg (by omega), Int.natAbs_natCast, decide_eq_false (by omega)]

theorem roundInt_neg {z : Bool} {v : Nat} (h : 0 < v) :
    roundInt z (-(v : Int)) = fpack true (roundMag v 1) := by
  unfold roundInt
  rw [if_neg (by omega), Int.natAbs_neg, Int.natAbs_natCast, decide_eq_true (by omega)]

/-- An exact sum or difference never rounds to a NaN. -/
theorem fisNaN_roundInt (z : Bool) (v : Int) : fisNaN (roundInt z v) = false := by
  unfold roundInt
  split
  · exact fisNaN_fpack z (Nat.zero_le _)
  · exact fisNaN_fpack_roundMag _ _ _

/-! ## Comparisons -/

theorem fge_false_of_nan {a b : Word} (h : fisNaN a = true ∨ fisNaN b = true) : fge a b = false := by
  rcases h with h | h <;> simp [fge, h]

theorem fgt_false_of_nan {a b : Word} (h : fisNaN a = true ∨ fisNaN b = true) : fgt a b = false := by
  rcases h with h | h <;> simp [fgt, h]

theorem flt_eq_fgt (a b : Word) : flt a b = fgt b a := by
  simp [flt, fgt, Bool.and_comm (!fisNaN a)]

/-- Between two values that are no NaN, a ≥ b is the negation of a < b. -/
theorem fge_eq_not_flt {a b : Word} (ha : fisNaN a = false) (hb : fisNaN b = false) :
    fge a b = !flt a b := by
  simp only [fge, flt, ha, hb, Bool.not_false, Bool.true_and, ← decide_not, Int.not_lt]

/-! ## The integer square root -/

/-- What the search from the highest bit down gives: it keeps `r` a root from below, and closes the gap
to 1. -/
theorem isqrtFrom_spec (v : Nat) : ∀ (b r : Nat), r * r ≤ v → v < (r + 2 ^ b) * (r + 2 ^ b) →
    isqrtFrom v b r * isqrtFrom v b r ≤ v ∧
      v < (isqrtFrom v b r + 1) * (isqrtFrom v b r + 1)
  | 0, r, h1, h2 => by simpa [isqrtFrom] using ⟨h1, h2⟩
  | b + 1, r, h1, h2 => by
    unfold isqrtFrom
    split
    · next h =>
      apply isqrtFrom_spec v b _ h
      rwa [show r + 2 ^ b + 2 ^ b = r + 2 ^ (b + 1) by rw [Nat.pow_succ]; omega]
    · next h => exact isqrtFrom_spec v b _ h1 (by omega)

/-- `isqrt` is the integer square root below 2^428. -/
theorem isqrt_spec {v : Nat} (h : v < 2 ^ 214 * 2 ^ 214) :
    isqrt v * isqrt v ≤ v ∧ v < (isqrt v + 1) * (isqrt v + 1) := by
  refine isqrtFrom_spec v 214 0 (Nat.zero_le _) ?_
  rwa [Nat.zero_add]

/-- A magnitude pattern as the significand and the exponent that `roundMag` puts together, and the next
pattern as the next significand. -/
theorem magUnits_split (m : Nat) : ∃ k S, m = k * 2 ^ 23 + S ∧ S < 2 ^ 24 ∧ (0 < k → 2 ^ 23 ≤ S) ∧
    magUnits m = S * 2 ^ k ∧ magUnits (m + 1) = (S + 1) * 2 ^ k := by
  have hdm := Nat.div_add_mod m (2 ^ 23)
  have hf := Nat.mod_lt m (show 0 < 2 ^ 23 by decide)
  have next : ∀ E f, f < 2 ^ 23 → magUnits (2 ^ 23 * E + f) =
      if E = 0 then f else (2 ^ 23 + f) * 2 ^ (E - 1) := by
    intro E f h
    unfold magUnits
    rw [Nat.mul_add_div (by decide), Nat.div_eq_of_lt h, Nat.add_zero, Nat.mul_add_mod,
      Nat.mod_eq_of_lt h]
  generalize m / 2 ^ 23 = E at *
  generalize m % 2 ^ 23 = f at *
  subst hdm
  have hnext : magUnits (2 ^ 23 * E + f + 1) =
      if f + 1 = 2 ^ 23 then 2 ^ 23 * 2 ^ E
      else if E = 0 then f + 1 else (2 ^ 23 + (f + 1)) * 2 ^ (E - 1) := by
    by_cases h : f + 1 = 2 ^ 23
    · rw [if_pos h, show 2 ^ 23 * E + f + 1 = 2 ^ 23 * (E + 1) + 0 by omega, next _ _ (by decide),
        if_neg (by omega), Nat.add_zero, Nat.add_sub_cancel]
    · rw [if_neg h, show 2 ^ 23 * E + f + 1 = 2 ^ 23 * E + (f + 1) by omega, next _ _ (by omega)]
  rcases Nat.eq_zero_or_pos E with rfl | hE
  · refine ⟨0, f, by omega, by omega, by omega, ?_, ?_⟩
    · rw [next _ _ hf]; simp
    · rw [hnext]; split <;> simp_all
  · obtain ⟨E, rfl⟩ : ∃ e, E = e + 1 := ⟨E - 1, by omega⟩
    refine ⟨E, 2 ^ 23 + f, by omega, by omega, by omega, ?_, ?_⟩
    · rw [next _ _ hf, if_neg (by omega), Nat.add_sub_cancel]
    · rw [hnext]
      split
      · next h =>
        rw [show 2 ^ 23 + f + 1 = 2 ^ 23 * 2 by omega, Nat.pow_succ]; ring
      · rw [if_neg (by omega), Nat.add_sub_cancel, Nat.add_assoc]

/-- The integer part of a fraction is below 2^24 in units of the last place. -/
theorem num_lt_significand {num den : Nat} (hd : 0 < den) :
    num < 2 ^ 24 * (den * 2 ^ dropBits (num / den)) := by
  have hq : num / den < 2 ^ (24 + dropBits (num / den)) := by
    refine lt_of_lt_of_le (Nat.lt_log2_self) ?_
    apply Nat.pow_le_pow_right (by decide)
    unfold dropBits; omega
  calc num < den * (num / den + 1) := Nat.lt_mul_div_succ num hd
    _ ≤ den * 2 ^ (24 + dropBits (num / den)) := Nat.mul_le_mul_left den hq
    _ = 2 ^ 24 * (den * 2 ^ dropBits (num / den)) := by rw [Nat.pow_add]; ring

/-- With bits dropped it is at least 2^23. -/
theorem significand_le_num {num den : Nat} (hk : 0 < dropBits (num / den)) :
    2 ^ 23 * (den * 2 ^ dropBits (num / den)) ≤ num := by
  have hq0 : num / den ≠ 0 := by
    intro h; rw [h] at hk; simp [dropBits] at hk
  have hq : 2 ^ (23 + dropBits (num / den)) ≤ num / den := by
    refine le_trans (Nat.pow_le_pow_right (by decide) ?_) (Nat.log2_self_le hq0)
    unfold dropBits at *; omega
  calc 2 ^ 23 * (den * 2 ^ dropBits (num / den)) = den * 2 ^ (23 + dropBits (num / den)) := by
        rw [Nat.pow_add]; ring
    _ ≤ den * (num / den) := Nat.mul_le_mul_left den hq
    _ ≤ num := Nat.mul_div_le num den

theorem twice_unit_le {den k e : Nat} (h : k < e) : 2 * (den * 2 ^ k) ≤ den * 2 ^ e := by
  calc 2 * (den * 2 ^ k) = den * 2 ^ (k + 1) := by rw [Nat.pow_succ]; ring
    _ ≤ den * 2 ^ e := Nat.mul_le_mul_left _ (Nat.pow_le_pow_right (by decide) h)

theorem below_midpoint {num A B S : Nat} (h1 : num < 2 ^ 24 * A) (h2 : 2 * A ≤ B)
    (h3 : 2 ^ 23 ≤ S) : 2 * num < (2 * S + 1) * B := by
  have h4 : (2 * 2 ^ 23 + 1) * B ≤ (2 * S + 1) * B := Nat.mul_le_mul_right _ (by omega)
  omega

theorem above_midpoint {num A B S : Nat} (h1 : 2 ^ 23 * A ≤ num) (h2 : 2 * B ≤ A) (h0 : 0 < B)
    (h3 : S < 2 ^ 24) : (2 * S + 1) * B < 2 * num := by
  have h4 : (2 * S + 1) * B ≤ (2 ^ 25 - 1) * B := Nat.mul_le_mul_right _ (by omega)
  omega

/-- Rounding goes up exactly past the midpoint between two patterns, and at it from an odd one. -/
theorem roundMag_le_iff {num den m : Nat} (hd : 0 < den) (hm : m < infMag) :
    roundMag num den ≤ m ↔ 2 * num < (magUnits m + magUnits (m + 1)) * den ∨
      (2 * num = (magUnits m + magUnits (m + 1)) * den ∧ m % 2 = 0) := by
  obtain ⟨e, S, hmS, hS, hS', hu, hu'⟩ := magUnits_split m
  have hsum : (magUnits m + magUnits (m + 1)) * den = (2 * S + 1) * (den * 2 ^ e) := by
    rw [hu, hu']; ring
  have hle := significand_le (num := num) hd
  have hge := significand_ge (num := num) hd
  have hlt := num_lt_significand (num := num) hd
  have hgt := significand_le_num (num := num) (den := den)
  have hhalf := @roundHalfEven_le_iff num (den * 2 ^ dropBits (num / den)) S
    (Nat.mul_pos hd (Nat.two_pow_pos _))
  have hpe : 0 < den * 2 ^ e := Nat.mul_pos hd (Nat.two_pow_pos _)
  have hmin : roundMag num den ≤ m ↔ dropBits (num / den) * 2 ^ 23 +
      roundHalfEven num (den * 2 ^ dropBits (num / den)) ≤ m := by
    unfold roundMag
    exact min_le_iff.trans ⟨fun h => h.resolve_right (by omega), .inl⟩
  rw [hsum, hmin, hmS]
  clear hsum hmin hu hu' hm
  generalize roundHalfEven num (den * 2 ^ dropBits (num / den)) = R at *
  generalize dropBits (num / den) = k at *
  rcases Nat.lt_trichotomy k e with h | h | h
  · have h3 := hS' (by omega)
    have := below_midpoint hlt (twice_unit_le h) h3
    exact ⟨fun _ => .inl this, fun _ => by omega⟩
  · subst h
    rw [Nat.add_le_add_iff_left, hhalf, show (k * 2 ^ 23 + S) % 2 = S % 2 by omega]
  · have := above_midpoint (hgt (by omega)) (twice_unit_le h) hpe hS
    have := hge (by omega)
    constructor
    · intro h1; omega
    · rintro (h1 | ⟨h1, -⟩) <;> omega

/-- The rounded pattern is nearest: the midpoint to any other pattern is not passed, and is met only by an
even one. -/
theorem roundMag_nearest {num den : Nat} (hd : 0 < den) {m : Nat} (hm : m < infMag) :
    (roundMag num den < m →
      2 * num ≤ (magUnits (roundMag num den) + magUnits m) * den ∧
      (2 * num = (magUnits (roundMag num den) + magUnits m) * den → roundMag num den % 2 = 0)) ∧
    (m < roundMag num den →
      (magUnits m + magUnits (roundMag num den)) * den ≤ 2 * num ∧
      ((magUnits m + magUnits (roundMag num den)) * den = 2 * num → roundMag num den % 2 = 0)) := by
  have hmono : ∀ {a b : Nat}, a ≤ b → b < infMag → magUnits a ≤ magUnits b := by
    intro a b h hb
    rcases Nat.lt_or_ge a b with h' | h'
    · exact Nat.le_of_lt (magUnits_lt h' hb)
    · exact Nat.le_of_eq (by rw [Nat.le_antisymm h h'])
  constructor
  · intro h
    have h1 := (roundMag_le_iff (num := num) (m := roundMag num den) hd (by omega)).mp le_rfl
    have h2 := Nat.mul_le_mul_right den
      (Nat.add_le_add_left (hmono h hm) (magUnits (roundMag num den)))
    constructor
    · simp only [Nat.succ_eq_add_one] at h2; omega
    · intro h3; simp only [Nat.succ_eq_add_one] at h2; omega
  · intro h
    have hr := roundMag_le num den
    have h1 := mt (roundMag_le_iff (num := num) (m := roundMag num den - 1) hd (by omega)).mpr
      (by omega)
    rw [show roundMag num den - 1 + 1 = roundMag num den by omega, not_or, not_and] at h1
    have h2 := Nat.mul_le_mul_right den
      (Nat.add_le_add_right (hmono (show m ≤ roundMag num den - 1 by omega) (by omega))
        (magUnits (roundMag num den)))
    constructor
    · omega
    · intro h3
      have h4 := h1.2 (by omega)
      omega

/-- Rounding overflows exactly from the midpoint past the largest finite pattern on. -/
theorem roundMag_eq_infMag_iff {num den : Nat} (hd : 0 < den) :
    roundMag num den = infMag ↔ (2 ^ 25 - 1) * 2 ^ 252 * den ≤ num := by
  have h := roundMag_le_iff (num := num) (m := infMag - 1) hd (by decide)
  have hu : magUnits (infMag - 1) + magUnits (infMag - 1 + 1) = 2 * ((2 ^ 25 - 1) * 2 ^ 252) := by
    decide +kernel
  rw [hu, show (infMag - 1) % 2 = 1 by decide, Nat.mul_assoc 2] at h
  have h2 := roundMag_le num den
  have hi : 0 < infMag := by decide
  constructor
  · intro h3
    by_contra h4
    have := h.mpr (.inl (by omega))
    omega
  · intro h3
    by_contra h4
    have := h.mp (by omega)
    omega

/-! ## The rounding error -/

/-- The value of a pattern put together from dropped bits and a rounded significand. -/
theorem magUnits_significand {k S : Nat} (hS : S ≤ 2 ^ 24) (hk : 0 < k → 2 ^ 23 ≤ S) :
    magUnits (k * 2 ^ 23 + S) = S * 2 ^ k := by
  have split : ∀ E f, f < 2 ^ 23 → magUnits (E * 2 ^ 23 + f) =
      if E = 0 then f else (2 ^ 23 + f) * 2 ^ (E - 1) := by
    intro E f h
    unfold magUnits
    rw [show (E * 2 ^ 23 + f) / 2 ^ 23 = E by omega, show (E * 2 ^ 23 + f) % 2 ^ 23 = f by omega]
  rcases Nat.lt_or_ge S (2 ^ 23) with h | h
  · obtain rfl : k = 0 := by omega
    simpa using split 0 S h
  · rcases Nat.lt_or_ge S (2 ^ 24) with h' | h'
    · obtain ⟨f, rfl⟩ := Nat.exists_eq_add_of_le h
      rw [show k * 2 ^ 23 + (2 ^ 23 + f) = (k + 1) * 2 ^ 23 + f by omega, split _ _ (by omega),
        if_neg (by omega), Nat.add_sub_cancel]
    · obtain rfl : S = 2 ^ 24 := by omega
      rw [show k * 2 ^ 23 + 2 ^ 24 = (k + 2) * 2 ^ 23 + 0 by omega, split _ _ (by decide),
        if_neg (by omega), show k + 2 - 1 = k + 1 by omega, Nat.pow_succ]
      ring

/-- Rounding moves a fraction by at most a half. -/
theorem roundHalfEven_error (n : Nat) {d : Nat} (hd : 0 < d) :
    2 * ((roundHalfEven n d * d : Nat) - (n : Int)).natAbs ≤ d := by
  have hdm := Nat.div_add_mod n d
  have hlt := Nat.mod_lt n hd
  unfold roundHalfEven
  generalize n % d = r at *
  have h1 : (n / d + 1) * d = n / d * d + d := by ring
  rw [Nat.mul_comm d] at hdm
  split
  · omega
  · split
    · omega
    · rcases Nat.mod_two_eq_zero_or_one (n / d) with h | h <;> rw [h]
      · rw [Nat.add_zero]; omega
      · omega

/-- One rounding without overflow moves a value by at most 2^-24 of it, or by half a unit. -/
theorem roundMag_error {num den : Nat} (hd : 0 < den) (h : roundMag num den < infMag) :
    2 ^ 24 * ((magUnits (roundMag num den) * den : Nat) - (num : Int)).natAbs ≤ num ∨
    2 * ((magUnits (roundMag num den) * den : Nat) - (num : Int)).natAbs ≤ den := by
  have hle := significand_le (num := num) hd
  have hge := significand_ge (num := num) hd
  have hn := significand_le_num (num := num) (den := den)
  have herr := roundHalfEven_error num (d := den * 2 ^ dropBits (num / den))
    (Nat.mul_pos hd (Nat.two_pow_pos _))
  have hval : roundMag num den = dropBits (num / den) * 2 ^ 23 +
      roundHalfEven num (den * 2 ^ dropBits (num / den)) :=
    (min_choice _ _).resolve_right fun h' => Nat.ne_of_lt h h'
  rw [hval, magUnits_significand hle hge]
  generalize roundHalfEven num (den * 2 ^ dropBits (num / den)) = S at *
  generalize dropBits (num / den) = k at *
  rw [show S * 2 ^ k * den = S * (den * 2 ^ k) by ring]
  rcases Nat.eq_zero_or_pos k with rfl | hk
  · right; simpa using herr
  · left
    have := hn hk
    omega

/-- A whole number of units is rounded by at most 2^-24 of it. -/
theorem roundMag_error_whole {v : Nat} (h : roundMag v 1 < infMag) :
    2 ^ 24 * ((magUnits (roundMag v 1) : Nat) - (v : Int)).natAbs ≤ v := by
  have := roundMag_error (num := v) (by decide) h
  rw [Nat.mul_one] at this
  omega

/-! ## Finite sums and products -/

/-- The value of a pattern. -/
theorem fvalue_fpack (neg : Bool) {m : Nat} (h : m < 2 ^ 31) :
    fvalue (fpack neg m) = if neg = true then -(magUnits m : Int) else magUnits m := by
  simp only [fvalue, funits, fsign_fpack neg h, fmag_fpack neg h]

theorem finite_fpack (neg : Bool) {m : Nat} (h : m < 2 ^ 31) :
    finite (fpack neg m) = decide (m < infMag) := by
  simp only [finite, fmag_fpack neg h]

/-- A finite value is no NaN and no infinity. -/
theorem not_special_of_finite {x : Word} (h : finite x = true) : fisNaN x = false ∧ fisInf x = false := by
  simp only [finite, fisNaN, fisInf, decide_eq_true_eq, decide_eq_false_iff_not,
    beq_eq_false_iff_ne] at *
  omega

theorem finite_canonicalNaN : finite canonicalNaN = false := by decide
theorem finite_of_not_special {x : Word} (h : fisNaN x = false) (h' : fisInf x = false) :
    finite x = true := by
  simp only [finite, fisNaN, fisInf, decide_eq_true_eq, decide_eq_false_iff_not,
    beq_eq_false_iff_ne] at *
  omega

theorem not_finite_of_inf {x : Word} (h : fisInf x = true) : finite x = false := by
  simp only [finite, fisInf, decide_eq_false_iff_not, beq_iff_eq] at *
  omega

/-- A finite sum has finite operands. -/
theorem finite_of_fadd {x y : Word} (h : finite (fadd x y) = true) :
    finite x = true ∧ finite y = true := by
  unfold fadd at h
  split at h
  · simp [finite_canonicalNaN] at h
  · rename_i hn
    simp only [Bool.or_eq_true, not_or, Bool.not_eq_true] at hn
    split at h
    · rename_i hi
      split at h
      · simp [finite_canonicalNaN] at h
      · simp [not_finite_of_inf hi] at h
    · rename_i hx
      split at h
      · rename_i hi
        simp [not_finite_of_inf hi] at h
      · rename_i hy
        exact ⟨finite_of_not_special hn.1 (by simpa using hx),
          finite_of_not_special hn.2 (by simpa using hy)⟩

/-- A finite product has finite operands. -/
theorem finite_of_fmul {x y : Word} (h : finite (fmul x y) = true) :
    finite x = true ∧ finite y = true := by
  unfold fmul at h
  simp only at h
  split at h
  · simp [finite_canonicalNaN] at h
  · rename_i hn
    simp only [Bool.or_eq_true, not_or, Bool.not_eq_true] at hn
    split at h
    · split at h
      · simp [finite_canonicalNaN] at h
      · simp [finite_fpack _ infMag_lt] at h
    · rename_i hi
      simp only [Bool.or_eq_true, not_or, Bool.not_eq_true] at hi
      exact ⟨finite_of_not_special hn.1 hi.1, finite_of_not_special hn.2 hi.2⟩

/-- The sum of finite values is their exact sum, rounded once. -/
theorem fadd_finite {x y : Word} (hx : finite x = true) (hy : finite y = true) :
    fadd x y = roundInt (fsign x && fsign y) (fvalue x + fvalue y) := by
  simp [fadd, not_special_of_finite hx, not_special_of_finite hy]

/-- The product of finite values is their exact product, rounded once. -/
theorem fmul_finite {x y : Word} (hx : finite x = true) (hy : finite y = true) :
    fmul x y = fpack (fsign x != fsign y) (roundMag (funits x * funits y) (2 ^ 149)) := by
  simp [fmul, not_special_of_finite hx, not_special_of_finite hy]

theorem magUnits_zero : magUnits 0 = 0 := by decide

/-- One addition without overflow moves the exact sum by at most 2^-24 of it. -/
theorem fadd_error {x y : Word} (h : finite (fadd x y) = true) :
    2 ^ 24 * (fvalue (fadd x y) - (fvalue x + fvalue y)).natAbs ≤ (fvalue x + fvalue y).natAbs := by
  obtain ⟨hx, hy⟩ := finite_of_fadd h
  rw [fadd_finite hx hy] at *
  generalize fvalue x + fvalue y = v at *
  by_cases hv : v = 0
  · rw [hv, roundInt, if_pos rfl, fvalue_fpack _ (by decide), magUnits_zero]; simp
  · have hm : roundMag v.natAbs 1 < 2 ^ 31 := lt_of_le_of_lt (roundMag_le _ _) infMag_lt
    rw [roundInt, if_neg hv] at *
    rw [finite_fpack _ hm, decide_eq_true_eq] at h
    have := roundMag_error_whole h
    rw [fvalue_fpack _ hm]
    generalize magUnits (roundMag v.natAbs 1) = r at *
    simp only [decide_eq_true_eq]
    split <;> omega

/-- One multiplication without overflow moves the exact product by at most 2^-24 of it, or by half a
unit. -/
theorem fmul_error {x y : Word} (h : finite (fmul x y) = true) :
    2 ^ 24 * (fvalue (fmul x y) * 2 ^ 149 - fvalue x * fvalue y).natAbs ≤
      (fvalue x * fvalue y).natAbs + 2 ^ 172 := by
  obtain ⟨hx, hy⟩ := finite_of_fmul h
  rw [fmul_finite hx hy] at *
  have hm : roundMag (funits x * funits y) (2 ^ 149) < 2 ^ 31 :=
    lt_of_le_of_lt (roundMag_le _ _) infMag_lt
  rw [finite_fpack _ hm, decide_eq_true_eq] at h
  have herr := roundMag_error (Nat.two_pow_pos 149) h
  rw [fvalue_fpack _ hm]
  have hv : fvalue x * fvalue y = if (fsign x != fsign y) = true then -((funits x * funits y : Nat) : Int)
      else ((funits x * funits y : Nat) : Int) := by
    unfold fvalue
    cases fsign x <;> cases fsign y <;> simp
  rw [hv]
  generalize funits x * funits y = u at *
  generalize magUnits (roundMag u (2 ^ 149)) = r at *
  push_cast at herr
  split <;> omega

/-! ## Adding a zero -/

/-- A zero product. -/
theorem fisZero_fmul_zero {z e : Word} (hz : fisZero z = true) (he : finite e = true) :
    fisZero (fmul z e) = true := by
  have h0 : fmag z = 0 := by simpa [fisZero] using hz
  have hf : finite z = true := by simp [finite, h0, infMag]
  rw [fmul_finite hf he]
  have : funits z = 0 := by rw [funits, h0, magUnits_zero]
  rw [this, Nat.zero_mul]
  have hr : roundMag 0 (2 ^ 149) = 0 := by decide +kernel
  rw [hr]
  simp [fisZero]

/-- Adding a zero leaves a value other than -0.0 and a NaN with a payload as it is. -/
theorem fadd_zero {x z : Word} (hz : fisZero z = true) (hx : x ≠ 0x80000000#32)
    (hn : fisNaN x = true → x = canonicalNaN) : fadd x z = x := by
  have h0 : fmag z = 0 := by simpa [fisZero] using hz
  have hf : finite z = true := by simp [finite, h0, infMag]
  have hzs := not_special_of_finite hf
  by_cases hxn : fisNaN x = true
  · rw [hn hxn]; rfl
  · by_cases hxi : fisInf x = true
    · simp [fadd, hxn, hxi, hzs]
    · have hxf := finite_of_not_special (by simpa using hxn) (by simpa using hxi)
      have hzv : fvalue z = 0 := by simp [fvalue, funits, h0, magUnits_zero]
      rw [fadd_finite hxf hf, hzv, Int.add_zero]
      have hlt : fmag x < infMag := by simpa [finite] using hxf
      have heta := fpack_eta x
      rcases Nat.eq_zero_or_pos (funits x) with h | h
      · have hm : fmag x = 0 := by
          by_contra hc
          have := magUnits_lt (Nat.pos_of_ne_zero hc) hlt
          rw [magUnits_zero] at this
          unfold funits at h
          omega
        have hs : fsign x = false := by
          by_contra hc
          rw [hm, Bool.not_eq_false _ |>.mp hc] at heta
          exact hx (heta.symm.trans (by decide))
        have : fvalue x = 0 := by simp [fvalue, h]
        rw [this, ← heta, hm, hs]
        simp [roundInt]
      · unfold fvalue
        cases hs : fsign x
        · rw [hs] at heta
          simp only [Bool.false_eq_true, if_false]
          rw [roundInt_pos h, funits, roundMag_magUnits hlt, heta]
        · rw [hs] at heta
          simp only [if_true]
          rw [roundInt_neg h, funits, roundMag_magUnits hlt, heta]

/-- Every NaN sum is the canonical NaN. -/
theorem fadd_nan {x y : Word} (h : fisNaN (fadd x y) = true) : fadd x y = canonicalNaN := by
  unfold fadd at *
  split
  · rfl
  · rename_i h1
    rw [if_neg h1] at h
    simp only [Bool.or_eq_true, not_or, Bool.not_eq_true] at h1
    split at h
    · split at h
      · split <;> simp_all
      · simp_all
    · split at h
      · simp_all
      · simp [fisNaN_roundInt] at h

/-- No sum with a first operand other than -0.0 is -0.0. -/
theorem fadd_ne_negZero {x y : Word} (hx : x ≠ 0x80000000#32) : fadd x y ≠ 0x80000000#32 := by
  intro h
  have hf : finite (fadd x y) = true := by rw [h]; decide
  obtain ⟨hxf, hyf⟩ := finite_of_fadd hf
  have herr := fadd_error hf
  rw [h, show fvalue 0x80000000#32 = 0 by decide] at herr
  have hv : fvalue x + fvalue y = 0 := by omega
  rw [fadd_finite hxf hyf, hv] at h
  have hs : (fsign x && fsign y) = true := by
    by_contra hc
    simp only [Bool.not_eq_true] at hc
    rw [hc] at h
    exact absurd h (by decide)
  simp only [Bool.and_eq_true] at hs
  have hz : funits x = 0 := by
    simp only [fvalue, hs.1, hs.2, if_true] at hv
    omega
  have hm : fmag x = 0 := by
    by_contra hc
    have := magUnits_lt (Nat.pos_of_ne_zero hc) (show fmag x < infMag by simpa [finite] using hxf)
    rw [magUnits_zero] at this
    unfold funits at hz
    omega
  apply hx
  rw [← fpack_eta x, hs.1, hm]
  decide

end Sys2Proof.Machine
end

