-- ==== Sys2Proof/Laws/State.lean ====
section
/-! SUPPORT. Every named update of the machine and of the block, field by field: what it writes and what
it leaves. All are true by computation, so that no later proof unfolds a record update. -/

namespace Sys2Proof.Machine

/-! ## Updates of the machine -/

@[simp] theorem State.send_arch (s : State) (ws : List Word) : (s.send ws).arch = s.arch := rfl
@[simp] theorem State.send_taken (s : State) (ws : List Word) : (s.send ws).taken = s.taken := rfl
@[simp] theorem State.send_cmdPort (s : State) (ws : List Word) : (s.send ws).cmdPort = s.cmdPort := rfl
@[simp] theorem State.send_rspPort (s : State) (ws : List Word) : (s.send ws).rspPort = s.rspPort ++ ws := rfl

@[simp] theorem State.withArch_arch (s : State) (a : Arch) : (s.withArch a).arch = a := rfl
@[simp] theorem State.withArch_taken (s : State) (a : Arch) : (s.withArch a).taken = s.taken := rfl
@[simp] theorem State.withArch_cmdPort (s : State) (a : Arch) : (s.withArch a).cmdPort = s.cmdPort := rfl
@[simp] theorem State.withArch_rspPort (s : State) (a : Arch) : (s.withArch a).rspPort = s.rspPort := rfl

@[simp] theorem State.advancePort_arch (s : State) (es : List PortEvent) : (s.advancePort es).arch = s.arch := rfl
@[simp] theorem State.advancePort_taken (s : State) (es : List PortEvent) : (s.advancePort es).taken = s.taken := rfl
@[simp] theorem State.advancePort_cmdPort (s : State) (es : List PortEvent) : (s.advancePort es).cmdPort = es := rfl
@[simp] theorem State.advancePort_rspPort (s : State) (es : List PortEvent) : (s.advancePort es).rspPort = s.rspPort := rfl

@[simp] theorem State.pinReset_arch (s : State) : (s.pinReset).arch = Arch.reset := rfl
@[simp] theorem State.pinReset_taken (s : State) : (s.pinReset).taken = [] := rfl
@[simp] theorem State.pinReset_cmdPort (s : State) : (s.pinReset).cmdPort = s.cmdPort := rfl
@[simp] theorem State.pinReset_rspPort (s : State) : (s.pinReset).rspPort = [] := rfl

@[simp] theorem State.takeResponse_arch (s : State) : (s.takeResponse).arch = s.arch := rfl
@[simp] theorem State.takeResponse_taken (s : State) : (s.takeResponse).taken = s.taken := rfl
@[simp] theorem State.takeResponse_cmdPort (s : State) : (s.takeResponse).cmdPort = s.cmdPort := rfl
@[simp] theorem State.takeResponse_rspPort (s : State) : (s.takeResponse).rspPort = s.rspPort.tail := rfl

@[simp] theorem State.endFrame_arch (s : State) : (s.endFrame).arch = s.arch := rfl
@[simp] theorem State.endFrame_taken (s : State) : (s.endFrame).taken = [] := rfl
@[simp] theorem State.endFrame_cmdPort (s : State) : (s.endFrame).cmdPort = s.cmdPort := rfl
@[simp] theorem State.endFrame_rspPort (s : State) : (s.endFrame).rspPort = s.rspPort := rfl

/-! ## Updates of the block -/

@[simp] theorem Arch.takeDivergence_lifecycle (a : Arch) : a.takeDivergence.lifecycle = .fault := rfl
@[simp] theorem Arch.takeDivergence_faultCause (a : Arch) : a.takeDivergence.faultCause = rcValue .diverged := rfl
@[simp] theorem Arch.takeDivergence_sps (a : Arch) : a.takeDivergence.sps = a.sps := rfl
@[simp] theorem Arch.takeDivergence_loopBw (a : Arch) : a.takeDivergence.loopBw = a.loopBw := rfl
@[simp] theorem Arch.takeDivergence_loopDamp (a : Arch) : a.takeDivergence.loopDamp = a.loopDamp := rfl
@[simp] theorem Arch.takeDivergence_agcAlpha (a : Arch) : a.takeDivergence.agcAlpha = a.agcAlpha := rfl
@[simp] theorem Arch.takeDivergence_syncLen (a : Arch) : a.takeDivergence.syncLen = a.syncLen := rfl
@[simp] theorem Arch.takeDivergence_syncPatLo (a : Arch) : a.takeDivergence.syncPatLo = a.syncPatLo := rfl
@[simp] theorem Arch.takeDivergence_syncPatHi (a : Arch) : a.takeDivergence.syncPatHi = a.syncPatHi := rfl
@[simp] theorem Arch.takeDivergence_threshold (a : Arch) : a.takeDivergence.threshold = a.threshold := rfl
@[simp] theorem Arch.takeDivergence_pktLen (a : Arch) : a.takeDivergence.pktLen = a.pktLen := rfl
@[simp] theorem Arch.takeDivergence_lfsrPoly (a : Arch) : a.takeDivergence.lfsrPoly = a.lfsrPoly := rfl
@[simp] theorem Arch.takeDivergence_lfsrSeed (a : Arch) : a.takeDivergence.lfsrSeed = a.lfsrSeed := rfl
@[simp] theorem Arch.takeDivergence_rate (a : Arch) : a.takeDivergence.rate = a.rate := rfl
@[simp] theorem Arch.takeDivergence_kp (a : Arch) : a.takeDivergence.kp = a.kp := rfl
@[simp] theorem Arch.takeDivergence_ki (a : Arch) : a.takeDivergence.ki = a.ki := rfl
@[simp] theorem Arch.takeDivergence_agcOma (a : Arch) : a.takeDivergence.agcOma = a.agcOma := rfl
@[simp] theorem Arch.takeDivergence_nolock (a : Arch) : a.takeDivergence.nolock = a.nolock := rfl
@[simp] theorem Arch.takeDivergence_raw (a : Arch) : a.takeDivergence.raw = a.raw := rfl
@[simp] theorem Arch.takeDivergence_ih (a : Arch) : a.takeDivergence.ih = a.ih := rfl
@[simp] theorem Arch.takeDivergence_eh (a : Arch) : a.takeDivergence.eh = a.eh := rfl
@[simp] theorem Arch.takeDivergence_phase (a : Arch) : a.takeDivergence.phase = a.phase := rfl
@[simp] theorem Arch.takeDivergence_integ (a : Arch) : a.takeDivergence.integ = a.integ := rfl
@[simp] theorem Arch.takeDivergence_agcP (a : Arch) : a.takeDivergence.agcP = a.agcP := rfl
@[simp] theorem Arch.takeDivergence_gate (a : Arch) : a.takeDivergence.gate = a.gate := rfl
@[simp] theorem Arch.takeDivergence_pstate (a : Arch) : a.takeDivergence.pstate = a.pstate := rfl
@[simp] theorem Arch.takeDivergence_capidx (a : Arch) : a.takeDivergence.capidx = a.capidx := rfl
@[simp] theorem Arch.takeDivergence_payload (a : Arch) : a.takeDivergence.payload = a.payload := rfl
@[simp] theorem Arch.takeDivergence_pktAvail (a : Arch) : a.takeDivergence.pktAvail = a.pktAvail := rfl
@[simp] theorem Arch.takeDivergence_lfsr (a : Arch) : a.takeDivergence.lfsr = a.lfsr := rfl
@[simp] theorem Arch.takeDivergence_sampleCount (a : Arch) : a.takeDivergence.sampleCount = a.sampleCount := rfl
@[simp] theorem Arch.takeDivergence_packetCount (a : Arch) : a.takeDivergence.packetCount = a.packetCount := rfl
@[simp] theorem Arch.takeDivergence_pktSampleIndex (a : Arch) : a.takeDivergence.pktSampleIndex = a.pktSampleIndex := rfl

@[simp] theorem Arch.countSample_lifecycle (a : Arch) : a.countSample.lifecycle = a.lifecycle := rfl
@[simp] theorem Arch.countSample_faultCause (a : Arch) : a.countSample.faultCause = a.faultCause := rfl
@[simp] theorem Arch.countSample_sps (a : Arch) : a.countSample.sps = a.sps := rfl
@[simp] theorem Arch.countSample_loopBw (a : Arch) : a.countSample.loopBw = a.loopBw := rfl
@[simp] theorem Arch.countSample_loopDamp (a : Arch) : a.countSample.loopDamp = a.loopDamp := rfl
@[simp] theorem Arch.countSample_agcAlpha (a : Arch) : a.countSample.agcAlpha = a.agcAlpha := rfl
@[simp] theorem Arch.countSample_syncLen (a : Arch) : a.countSample.syncLen = a.syncLen := rfl
@[simp] theorem Arch.countSample_syncPatLo (a : Arch) : a.countSample.syncPatLo = a.syncPatLo := rfl
@[simp] theorem Arch.countSample_syncPatHi (a : Arch) : a.countSample.syncPatHi = a.syncPatHi := rfl
@[simp] theorem Arch.countSample_threshold (a : Arch) : a.countSample.threshold = a.threshold := rfl
@[simp] theorem Arch.countSample_pktLen (a : Arch) : a.countSample.pktLen = a.pktLen := rfl
@[simp] theorem Arch.countSample_lfsrPoly (a : Arch) : a.countSample.lfsrPoly = a.lfsrPoly := rfl
@[simp] theorem Arch.countSample_lfsrSeed (a : Arch) : a.countSample.lfsrSeed = a.lfsrSeed := rfl
@[simp] theorem Arch.countSample_rate (a : Arch) : a.countSample.rate = a.rate := rfl
@[simp] theorem Arch.countSample_kp (a : Arch) : a.countSample.kp = a.kp := rfl
@[simp] theorem Arch.countSample_ki (a : Arch) : a.countSample.ki = a.ki := rfl
@[simp] theorem Arch.countSample_agcOma (a : Arch) : a.countSample.agcOma = a.agcOma := rfl
@[simp] theorem Arch.countSample_nolock (a : Arch) : a.countSample.nolock = a.nolock := rfl
@[simp] theorem Arch.countSample_raw (a : Arch) : a.countSample.raw = a.raw := rfl
@[simp] theorem Arch.countSample_ih (a : Arch) : a.countSample.ih = a.ih := rfl
@[simp] theorem Arch.countSample_eh (a : Arch) : a.countSample.eh = a.eh := rfl
@[simp] theorem Arch.countSample_phase (a : Arch) : a.countSample.phase = a.phase := rfl
@[simp] theorem Arch.countSample_integ (a : Arch) : a.countSample.integ = a.integ := rfl
@[simp] theorem Arch.countSample_agcP (a : Arch) : a.countSample.agcP = a.agcP := rfl
@[simp] theorem Arch.countSample_gate (a : Arch) : a.countSample.gate = a.gate := rfl
@[simp] theorem Arch.countSample_pstate (a : Arch) : a.countSample.pstate = a.pstate := rfl
@[simp] theorem Arch.countSample_capidx (a : Arch) : a.countSample.capidx = a.capidx := rfl
@[simp] theorem Arch.countSample_payload (a : Arch) : a.countSample.payload = a.payload := rfl
@[simp] theorem Arch.countSample_pktAvail (a : Arch) : a.countSample.pktAvail = a.pktAvail := rfl
@[simp] theorem Arch.countSample_lfsr (a : Arch) : a.countSample.lfsr = a.lfsr := rfl
@[simp] theorem Arch.countSample_sampleCount (a : Arch) : a.countSample.sampleCount = a.sampleCount + 1 := rfl
@[simp] theorem Arch.countSample_packetCount (a : Arch) : a.countSample.packetCount = a.packetCount := rfl
@[simp] theorem Arch.countSample_pktSampleIndex (a : Arch) : a.countSample.pktSampleIndex = a.pktSampleIndex := rfl

@[simp] theorem Arch.pushRaw_lifecycle (a : Arch) (x : Cplx) : (a.pushRaw x).lifecycle = a.lifecycle := rfl
@[simp] theorem Arch.pushRaw_faultCause (a : Arch) (x : Cplx) : (a.pushRaw x).faultCause = a.faultCause := rfl
@[simp] theorem Arch.pushRaw_sps (a : Arch) (x : Cplx) : (a.pushRaw x).sps = a.sps := rfl
@[simp] theorem Arch.pushRaw_loopBw (a : Arch) (x : Cplx) : (a.pushRaw x).loopBw = a.loopBw := rfl
@[simp] theorem Arch.pushRaw_loopDamp (a : Arch) (x : Cplx) : (a.pushRaw x).loopDamp = a.loopDamp := rfl
@[simp] theorem Arch.pushRaw_agcAlpha (a : Arch) (x : Cplx) : (a.pushRaw x).agcAlpha = a.agcAlpha := rfl
@[simp] theorem Arch.pushRaw_syncLen (a : Arch) (x : Cplx) : (a.pushRaw x).syncLen = a.syncLen := rfl
@[simp] theorem Arch.pushRaw_syncPatLo (a : Arch) (x : Cplx) : (a.pushRaw x).syncPatLo = a.syncPatLo := rfl
@[simp] theorem Arch.pushRaw_syncPatHi (a : Arch) (x : Cplx) : (a.pushRaw x).syncPatHi = a.syncPatHi := rfl
@[simp] theorem Arch.pushRaw_threshold (a : Arch) (x : Cplx) : (a.pushRaw x).threshold = a.threshold := rfl
@[simp] theorem Arch.pushRaw_pktLen (a : Arch) (x : Cplx) : (a.pushRaw x).pktLen = a.pktLen := rfl
@[simp] theorem Arch.pushRaw_lfsrPoly (a : Arch) (x : Cplx) : (a.pushRaw x).lfsrPoly = a.lfsrPoly := rfl
@[simp] theorem Arch.pushRaw_lfsrSeed (a : Arch) (x : Cplx) : (a.pushRaw x).lfsrSeed = a.lfsrSeed := rfl
@[simp] theorem Arch.pushRaw_rate (a : Arch) (x : Cplx) : (a.pushRaw x).rate = a.rate := rfl
@[simp] theorem Arch.pushRaw_kp (a : Arch) (x : Cplx) : (a.pushRaw x).kp = a.kp := rfl
@[simp] theorem Arch.pushRaw_ki (a : Arch) (x : Cplx) : (a.pushRaw x).ki = a.ki := rfl
@[simp] theorem Arch.pushRaw_agcOma (a : Arch) (x : Cplx) : (a.pushRaw x).agcOma = a.agcOma := rfl
@[simp] theorem Arch.pushRaw_nolock (a : Arch) (x : Cplx) : (a.pushRaw x).nolock = a.nolock := rfl
@[simp] theorem Arch.pushRaw_raw (a : Arch) (x : Cplx) : (a.pushRaw x).raw = a.raw.push Config.rawDepth x := rfl
@[simp] theorem Arch.pushRaw_ih (a : Arch) (x : Cplx) : (a.pushRaw x).ih = a.ih := rfl
@[simp] theorem Arch.pushRaw_eh (a : Arch) (x : Cplx) : (a.pushRaw x).eh = a.eh := rfl
@[simp] theorem Arch.pushRaw_phase (a : Arch) (x : Cplx) : (a.pushRaw x).phase = a.phase := rfl
@[simp] theorem Arch.pushRaw_integ (a : Arch) (x : Cplx) : (a.pushRaw x).integ = a.integ := rfl
@[simp] theorem Arch.pushRaw_agcP (a : Arch) (x : Cplx) : (a.pushRaw x).agcP = a.agcP := rfl
@[simp] theorem Arch.pushRaw_gate (a : Arch) (x : Cplx) : (a.pushRaw x).gate = a.gate := rfl
@[simp] theorem Arch.pushRaw_pstate (a : Arch) (x : Cplx) : (a.pushRaw x).pstate = a.pstate := rfl
@[simp] theorem Arch.pushRaw_capidx (a : Arch) (x : Cplx) : (a.pushRaw x).capidx = a.capidx := rfl
@[simp] theorem Arch.pushRaw_payload (a : Arch) (x : Cplx) : (a.pushRaw x).payload = a.payload := rfl
@[simp] theorem Arch.pushRaw_pktAvail (a : Arch) (x : Cplx) : (a.pushRaw x).pktAvail = a.pktAvail := rfl
@[simp] theorem Arch.pushRaw_lfsr (a : Arch) (x : Cplx) : (a.pushRaw x).lfsr = a.lfsr := rfl
@[simp] theorem Arch.pushRaw_sampleCount (a : Arch) (x : Cplx) : (a.pushRaw x).sampleCount = a.sampleCount := rfl
@[simp] theorem Arch.pushRaw_packetCount (a : Arch) (x : Cplx) : (a.pushRaw x).packetCount = a.packetCount := rfl
@[simp] theorem Arch.pushRaw_pktSampleIndex (a : Arch) (x : Cplx) : (a.pushRaw x).pktSampleIndex = a.pktSampleIndex := rfl

@[simp] theorem Arch.pushIh_lifecycle (a : Arch) (y : Cplx) : (a.pushIh y).lifecycle = a.lifecycle := rfl
@[simp] theorem Arch.pushIh_faultCause (a : Arch) (y : Cplx) : (a.pushIh y).faultCause = a.faultCause := rfl
@[simp] theorem Arch.pushIh_sps (a : Arch) (y : Cplx) : (a.pushIh y).sps = a.sps := rfl
@[simp] theorem Arch.pushIh_loopBw (a : Arch) (y : Cplx) : (a.pushIh y).loopBw = a.loopBw := rfl
@[simp] theorem Arch.pushIh_loopDamp (a : Arch) (y : Cplx) : (a.pushIh y).loopDamp = a.loopDamp := rfl
@[simp] theorem Arch.pushIh_agcAlpha (a : Arch) (y : Cplx) : (a.pushIh y).agcAlpha = a.agcAlpha := rfl
@[simp] theorem Arch.pushIh_syncLen (a : Arch) (y : Cplx) : (a.pushIh y).syncLen = a.syncLen := rfl
@[simp] theorem Arch.pushIh_syncPatLo (a : Arch) (y : Cplx) : (a.pushIh y).syncPatLo = a.syncPatLo := rfl
@[simp] theorem Arch.pushIh_syncPatHi (a : Arch) (y : Cplx) : (a.pushIh y).syncPatHi = a.syncPatHi := rfl
@[simp] theorem Arch.pushIh_threshold (a : Arch) (y : Cplx) : (a.pushIh y).threshold = a.threshold := rfl
@[simp] theorem Arch.pushIh_pktLen (a : Arch) (y : Cplx) : (a.pushIh y).pktLen = a.pktLen := rfl
@[simp] theorem Arch.pushIh_lfsrPoly (a : Arch) (y : Cplx) : (a.pushIh y).lfsrPoly = a.lfsrPoly := rfl
@[simp] theorem Arch.pushIh_lfsrSeed (a : Arch) (y : Cplx) : (a.pushIh y).lfsrSeed = a.lfsrSeed := rfl
@[simp] theorem Arch.pushIh_rate (a : Arch) (y : Cplx) : (a.pushIh y).rate = a.rate := rfl
@[simp] theorem Arch.pushIh_kp (a : Arch) (y : Cplx) : (a.pushIh y).kp = a.kp := rfl
@[simp] theorem Arch.pushIh_ki (a : Arch) (y : Cplx) : (a.pushIh y).ki = a.ki := rfl
@[simp] theorem Arch.pushIh_agcOma (a : Arch) (y : Cplx) : (a.pushIh y).agcOma = a.agcOma := rfl
@[simp] theorem Arch.pushIh_nolock (a : Arch) (y : Cplx) : (a.pushIh y).nolock = a.nolock := rfl
@[simp] theorem Arch.pushIh_raw (a : Arch) (y : Cplx) : (a.pushIh y).raw = a.raw := rfl
@[simp] theorem Arch.pushIh_ih (a : Arch) (y : Cplx) : (a.pushIh y).ih = a.ih.push Config.ihDepth y := rfl
@[simp] theorem Arch.pushIh_eh (a : Arch) (y : Cplx) : (a.pushIh y).eh = a.eh := rfl
@[simp] theorem Arch.pushIh_phase (a : Arch) (y : Cplx) : (a.pushIh y).phase = a.phase := rfl
@[simp] theorem Arch.pushIh_integ (a : Arch) (y : Cplx) : (a.pushIh y).integ = a.integ := rfl
@[simp] theorem Arch.pushIh_agcP (a : Arch) (y : Cplx) : (a.pushIh y).agcP = a.agcP := rfl
@[simp] theorem Arch.pushIh_gate (a : Arch) (y : Cplx) : (a.pushIh y).gate = a.gate := rfl
@[simp] theorem Arch.pushIh_pstate (a : Arch) (y : Cplx) : (a.pushIh y).pstate = a.pstate := rfl
@[simp] theorem Arch.pushIh_capidx (a : Arch) (y : Cplx) : (a.pushIh y).capidx = a.capidx := rfl
@[simp] theorem Arch.pushIh_payload (a : Arch) (y : Cplx) : (a.pushIh y).payload = a.payload := rfl
@[simp] theorem Arch.pushIh_pktAvail (a : Arch) (y : Cplx) : (a.pushIh y).pktAvail = a.pktAvail := rfl
@[simp] theorem Arch.pushIh_lfsr (a : Arch) (y : Cplx) : (a.pushIh y).lfsr = a.lfsr := rfl
@[simp] theorem Arch.pushIh_sampleCount (a : Arch) (y : Cplx) : (a.pushIh y).sampleCount = a.sampleCount := rfl
@[simp] theorem Arch.pushIh_packetCount (a : Arch) (y : Cplx) : (a.pushIh y).packetCount = a.packetCount := rfl
@[simp] theorem Arch.pushIh_pktSampleIndex (a : Arch) (y : Cplx) : (a.pushIh y).pktSampleIndex = a.pktSampleIndex := rfl

@[simp] theorem Arch.advanceBy_lifecycle (a : Arch) (d : Word) : (a.advanceBy d).1.lifecycle = a.lifecycle := by
  unfold Arch.advanceBy; dsimp only; split <;> rfl
@[simp] theorem Arch.advanceBy_faultCause (a : Arch) (d : Word) : (a.advanceBy d).1.faultCause = a.faultCause := by
  unfold Arch.advanceBy; dsimp only; split <;> rfl
@[simp] theorem Arch.advanceBy_sps (a : Arch) (d : Word) : (a.advanceBy d).1.sps = a.sps := by
  unfold Arch.advanceBy; dsimp only; split <;> rfl
@[simp] theorem Arch.advanceBy_loopBw (a : Arch) (d : Word) : (a.advanceBy d).1.loopBw = a.loopBw := by
  unfold Arch.advanceBy; dsimp only; split <;> rfl
@[simp] theorem Arch.advanceBy_loopDamp (a : Arch) (d : Word) : (a.advanceBy d).1.loopDamp = a.loopDamp := by
  unfold Arch.advanceBy; dsimp only; split <;> rfl
@[simp] theorem Arch.advanceBy_agcAlpha (a : Arch) (d : Word) : (a.advanceBy d).1.agcAlpha = a.agcAlpha := by
  unfold Arch.advanceBy; dsimp only; split <;> rfl
@[simp] theorem Arch.advanceBy_syncLen (a : Arch) (d : Word) : (a.advanceBy d).1.syncLen = a.syncLen := by
  unfold Arch.advanceBy; dsimp only; split <;> rfl
@[simp] theorem Arch.advanceBy_syncPatLo (a : Arch) (d : Word) : (a.advanceBy d).1.syncPatLo = a.syncPatLo := by
  unfold Arch.advanceBy; dsimp only; split <;> rfl
@[simp] theorem Arch.advanceBy_syncPatHi (a : Arch) (d : Word) : (a.advanceBy d).1.syncPatHi = a.syncPatHi := by
  unfold Arch.advanceBy; dsimp only; split <;> rfl
@[simp] theorem Arch.advanceBy_threshold (a : Arch) (d : Word) : (a.advanceBy d).1.threshold = a.threshold := by
  unfold Arch.advanceBy; dsimp only; split <;> rfl
@[simp] theorem Arch.advanceBy_pktLen (a : Arch) (d : Word) : (a.advanceBy d).1.pktLen = a.pktLen := by
  unfold Arch.advanceBy; dsimp only; split <;> rfl
@[simp] theorem Arch.advanceBy_lfsrPoly (a : Arch) (d : Word) : (a.advanceBy d).1.lfsrPoly = a.lfsrPoly := by
  unfold Arch.advanceBy; dsimp only; split <;> rfl
@[simp] theorem Arch.advanceBy_lfsrSeed (a : Arch) (d : Word) : (a.advanceBy d).1.lfsrSeed = a.lfsrSeed := by
  unfold Arch.advanceBy; dsimp only; split <;> rfl
@[simp] theorem Arch.advanceBy_rate (a : Arch) (d : Word) : (a.advanceBy d).1.rate = a.rate := by
  unfold Arch.advanceBy; dsimp only; split <;> rfl
@[simp] theorem Arch.advanceBy_kp (a : Arch) (d : Word) : (a.advanceBy d).1.kp = a.kp := by
  unfold Arch.advanceBy; dsimp only; split <;> rfl
@[simp] theorem Arch.advanceBy_ki (a : Arch) (d : Word) : (a.advanceBy d).1.ki = a.ki := by
  unfold Arch.advanceBy; dsimp only; split <;> rfl
@[simp] theorem Arch.advanceBy_agcOma (a : Arch) (d : Word) : (a.advanceBy d).1.agcOma = a.agcOma := by
  unfold Arch.advanceBy; dsimp only; split <;> rfl
@[simp] theorem Arch.advanceBy_nolock (a : Arch) (d : Word) : (a.advanceBy d).1.nolock = a.nolock := by
  unfold Arch.advanceBy; dsimp only; split <;> rfl
@[simp] theorem Arch.advanceBy_raw (a : Arch) (d : Word) : (a.advanceBy d).1.raw = a.raw := by
  unfold Arch.advanceBy; dsimp only; split <;> rfl
@[simp] theorem Arch.advanceBy_ih (a : Arch) (d : Word) : (a.advanceBy d).1.ih = a.ih := by
  unfold Arch.advanceBy; dsimp only; split <;> rfl
@[simp] theorem Arch.advanceBy_eh (a : Arch) (d : Word) : (a.advanceBy d).1.eh = a.eh := by
  unfold Arch.advanceBy; dsimp only; split <;> rfl
@[simp] theorem Arch.advanceBy_integ (a : Arch) (d : Word) : (a.advanceBy d).1.integ = a.integ := by
  unfold Arch.advanceBy; dsimp only; split <;> rfl
@[simp] theorem Arch.advanceBy_agcP (a : Arch) (d : Word) : (a.advanceBy d).1.agcP = a.agcP := by
  unfold Arch.advanceBy; dsimp only; split <;> rfl
@[simp] theorem Arch.advanceBy_gate (a : Arch) (d : Word) : (a.advanceBy d).1.gate = a.gate := by
  unfold Arch.advanceBy; dsimp only; split <;> rfl
@[simp] theorem Arch.advanceBy_pstate (a : Arch) (d : Word) : (a.advanceBy d).1.pstate = a.pstate := by
  unfold Arch.advanceBy; dsimp only; split <;> rfl
@[simp] theorem Arch.advanceBy_capidx (a : Arch) (d : Word) : (a.advanceBy d).1.capidx = a.capidx := by
  unfold Arch.advanceBy; dsimp only; split <;> rfl
@[simp] theorem Arch.advanceBy_payload (a : Arch) (d : Word) : (a.advanceBy d).1.payload = a.payload := by
  unfold Arch.advanceBy; dsimp only; split <;> rfl
@[simp] theorem Arch.advanceBy_pktAvail (a : Arch) (d : Word) : (a.advanceBy d).1.pktAvail = a.pktAvail := by
  unfold Arch.advanceBy; dsimp only; split <;> rfl
@[simp] theorem Arch.advanceBy_lfsr (a : Arch) (d : Word) : (a.advanceBy d).1.lfsr = a.lfsr := by
  unfold Arch.advanceBy; dsimp only; split <;> rfl
@[simp] theorem Arch.advanceBy_sampleCount (a : Arch) (d : Word) : (a.advanceBy d).1.sampleCount = a.sampleCount := by
  unfold Arch.advanceBy; dsimp only; split <;> rfl
@[simp] theorem Arch.advanceBy_packetCount (a : Arch) (d : Word) : (a.advanceBy d).1.packetCount = a.packetCount := by
  unfold Arch.advanceBy; dsimp only; split <;> rfl
@[simp] theorem Arch.advanceBy_pktSampleIndex (a : Arch) (d : Word) : (a.advanceBy d).1.pktSampleIndex = a.pktSampleIndex := by
  unfold Arch.advanceBy; dsimp only; split <;> rfl

@[simp] theorem Arch.piUpdate_lifecycle (a : Arch) (e : Word) : (a.piUpdate e).1.lifecycle = a.lifecycle := rfl
@[simp] theorem Arch.piUpdate_faultCause (a : Arch) (e : Word) : (a.piUpdate e).1.faultCause = a.faultCause := rfl
@[simp] theorem Arch.piUpdate_sps (a : Arch) (e : Word) : (a.piUpdate e).1.sps = a.sps := rfl
@[simp] theorem Arch.piUpdate_loopBw (a : Arch) (e : Word) : (a.piUpdate e).1.loopBw = a.loopBw := rfl
@[simp] theorem Arch.piUpdate_loopDamp (a : Arch) (e : Word) : (a.piUpdate e).1.loopDamp = a.loopDamp := rfl
@[simp] theorem Arch.piUpdate_agcAlpha (a : Arch) (e : Word) : (a.piUpdate e).1.agcAlpha = a.agcAlpha := rfl
@[simp] theorem Arch.piUpdate_syncLen (a : Arch) (e : Word) : (a.piUpdate e).1.syncLen = a.syncLen := rfl
@[simp] theorem Arch.piUpdate_syncPatLo (a : Arch) (e : Word) : (a.piUpdate e).1.syncPatLo = a.syncPatLo := rfl
@[simp] theorem Arch.piUpdate_syncPatHi (a : Arch) (e : Word) : (a.piUpdate e).1.syncPatHi = a.syncPatHi := rfl
@[simp] theorem Arch.piUpdate_threshold (a : Arch) (e : Word) : (a.piUpdate e).1.threshold = a.threshold := rfl
@[simp] theorem Arch.piUpdate_pktLen (a : Arch) (e : Word) : (a.piUpdate e).1.pktLen = a.pktLen := rfl
@[simp] theorem Arch.piUpdate_lfsrPoly (a : Arch) (e : Word) : (a.piUpdate e).1.lfsrPoly = a.lfsrPoly := rfl
@[simp] theorem Arch.piUpdate_lfsrSeed (a : Arch) (e : Word) : (a.piUpdate e).1.lfsrSeed = a.lfsrSeed := rfl
@[simp] theorem Arch.piUpdate_rate (a : Arch) (e : Word) : (a.piUpdate e).1.rate = a.rate := rfl
@[simp] theorem Arch.piUpdate_kp (a : Arch) (e : Word) : (a.piUpdate e).1.kp = a.kp := rfl
@[simp] theorem Arch.piUpdate_ki (a : Arch) (e : Word) : (a.piUpdate e).1.ki = a.ki := rfl
@[simp] theorem Arch.piUpdate_agcOma (a : Arch) (e : Word) : (a.piUpdate e).1.agcOma = a.agcOma := rfl
@[simp] theorem Arch.piUpdate_nolock (a : Arch) (e : Word) : (a.piUpdate e).1.nolock = a.nolock := rfl
@[simp] theorem Arch.piUpdate_raw (a : Arch) (e : Word) : (a.piUpdate e).1.raw = a.raw := rfl
@[simp] theorem Arch.piUpdate_ih (a : Arch) (e : Word) : (a.piUpdate e).1.ih = a.ih := rfl
@[simp] theorem Arch.piUpdate_eh (a : Arch) (e : Word) : (a.piUpdate e).1.eh = a.eh := rfl
@[simp] theorem Arch.piUpdate_phase (a : Arch) (e : Word) : (a.piUpdate e).1.phase = a.phase := rfl
@[simp] theorem Arch.piUpdate_integ (a : Arch) (e : Word) : (a.piUpdate e).1.integ = piIntegrator a.ki a.integ e := rfl
@[simp] theorem Arch.piUpdate_agcP (a : Arch) (e : Word) : (a.piUpdate e).1.agcP = a.agcP := rfl
@[simp] theorem Arch.piUpdate_gate (a : Arch) (e : Word) : (a.piUpdate e).1.gate = a.gate := rfl
@[simp] theorem Arch.piUpdate_pstate (a : Arch) (e : Word) : (a.piUpdate e).1.pstate = a.pstate := rfl
@[simp] theorem Arch.piUpdate_capidx (a : Arch) (e : Word) : (a.piUpdate e).1.capidx = a.capidx := rfl
@[simp] theorem Arch.piUpdate_payload (a : Arch) (e : Word) : (a.piUpdate e).1.payload = a.payload := rfl
@[simp] theorem Arch.piUpdate_pktAvail (a : Arch) (e : Word) : (a.piUpdate e).1.pktAvail = a.pktAvail := rfl
@[simp] theorem Arch.piUpdate_lfsr (a : Arch) (e : Word) : (a.piUpdate e).1.lfsr = a.lfsr := rfl
@[simp] theorem Arch.piUpdate_sampleCount (a : Arch) (e : Word) : (a.piUpdate e).1.sampleCount = a.sampleCount := rfl
@[simp] theorem Arch.piUpdate_packetCount (a : Arch) (e : Word) : (a.piUpdate e).1.packetCount = a.packetCount := rfl
@[simp] theorem Arch.piUpdate_pktSampleIndex (a : Arch) (e : Word) : (a.piUpdate e).1.pktSampleIndex = a.pktSampleIndex := rfl

@[simp] theorem Arch.toggleGate_lifecycle (a : Arch) (y : Cplx) : (a.toggleGate y).1.lifecycle = a.lifecycle := rfl
@[simp] theorem Arch.toggleGate_faultCause (a : Arch) (y : Cplx) : (a.toggleGate y).1.faultCause = a.faultCause := rfl
@[simp] theorem Arch.toggleGate_sps (a : Arch) (y : Cplx) : (a.toggleGate y).1.sps = a.sps := rfl
@[simp] theorem Arch.toggleGate_loopBw (a : Arch) (y : Cplx) : (a.toggleGate y).1.loopBw = a.loopBw := rfl
@[simp] theorem Arch.toggleGate_loopDamp (a : Arch) (y : Cplx) : (a.toggleGate y).1.loopDamp = a.loopDamp := rfl
@[simp] theorem Arch.toggleGate_agcAlpha (a : Arch) (y : Cplx) : (a.toggleGate y).1.agcAlpha = a.agcAlpha := rfl
@[simp] theorem Arch.toggleGate_syncLen (a : Arch) (y : Cplx) : (a.toggleGate y).1.syncLen = a.syncLen := rfl
@[simp] theorem Arch.toggleGate_syncPatLo (a : Arch) (y : Cplx) : (a.toggleGate y).1.syncPatLo = a.syncPatLo := rfl
@[simp] theorem Arch.toggleGate_syncPatHi (a : Arch) (y : Cplx) : (a.toggleGate y).1.syncPatHi = a.syncPatHi := rfl
@[simp] theorem Arch.toggleGate_threshold (a : Arch) (y : Cplx) : (a.toggleGate y).1.threshold = a.threshold := rfl
@[simp] theorem Arch.toggleGate_pktLen (a : Arch) (y : Cplx) : (a.toggleGate y).1.pktLen = a.pktLen := rfl
@[simp] theorem Arch.toggleGate_lfsrPoly (a : Arch) (y : Cplx) : (a.toggleGate y).1.lfsrPoly = a.lfsrPoly := rfl
@[simp] theorem Arch.toggleGate_lfsrSeed (a : Arch) (y : Cplx) : (a.toggleGate y).1.lfsrSeed = a.lfsrSeed := rfl
@[simp] theorem Arch.toggleGate_rate (a : Arch) (y : Cplx) : (a.toggleGate y).1.rate = a.rate := rfl
@[simp] theorem Arch.toggleGate_kp (a : Arch) (y : Cplx) : (a.toggleGate y).1.kp = a.kp := rfl
@[simp] theorem Arch.toggleGate_ki (a : Arch) (y : Cplx) : (a.toggleGate y).1.ki = a.ki := rfl
@[simp] theorem Arch.toggleGate_agcOma (a : Arch) (y : Cplx) : (a.toggleGate y).1.agcOma = a.agcOma := rfl
@[simp] theorem Arch.toggleGate_nolock (a : Arch) (y : Cplx) : (a.toggleGate y).1.nolock = a.nolock := rfl
@[simp] theorem Arch.toggleGate_raw (a : Arch) (y : Cplx) : (a.toggleGate y).1.raw = a.raw := rfl
@[simp] theorem Arch.toggleGate_ih (a : Arch) (y : Cplx) : (a.toggleGate y).1.ih = a.ih := rfl
@[simp] theorem Arch.toggleGate_eh (a : Arch) (y : Cplx) : (a.toggleGate y).1.eh = a.eh := rfl
@[simp] theorem Arch.toggleGate_phase (a : Arch) (y : Cplx) : (a.toggleGate y).1.phase = a.phase := rfl
@[simp] theorem Arch.toggleGate_integ (a : Arch) (y : Cplx) : (a.toggleGate y).1.integ = a.integ := rfl
@[simp] theorem Arch.toggleGate_agcP (a : Arch) (y : Cplx) : (a.toggleGate y).1.agcP = a.agcP := rfl
@[simp] theorem Arch.toggleGate_gate (a : Arch) (y : Cplx) : (a.toggleGate y).1.gate = !a.gate := rfl
@[simp] theorem Arch.toggleGate_pstate (a : Arch) (y : Cplx) : (a.toggleGate y).1.pstate = a.pstate := rfl
@[simp] theorem Arch.toggleGate_capidx (a : Arch) (y : Cplx) : (a.toggleGate y).1.capidx = a.capidx := rfl
@[simp] theorem Arch.toggleGate_payload (a : Arch) (y : Cplx) : (a.toggleGate y).1.payload = a.payload := rfl
@[simp] theorem Arch.toggleGate_pktAvail (a : Arch) (y : Cplx) : (a.toggleGate y).1.pktAvail = a.pktAvail := rfl
@[simp] theorem Arch.toggleGate_lfsr (a : Arch) (y : Cplx) : (a.toggleGate y).1.lfsr = a.lfsr := rfl
@[simp] theorem Arch.toggleGate_sampleCount (a : Arch) (y : Cplx) : (a.toggleGate y).1.sampleCount = a.sampleCount := rfl
@[simp] theorem Arch.toggleGate_packetCount (a : Arch) (y : Cplx) : (a.toggleGate y).1.packetCount = a.packetCount := rfl
@[simp] theorem Arch.toggleGate_pktSampleIndex (a : Arch) (y : Cplx) : (a.toggleGate y).1.pktSampleIndex = a.pktSampleIndex := rfl

@[simp] theorem Arch.agcStep_lifecycle (a : Arch) (x : Cplx) : (a.agcStep x).1.lifecycle = a.lifecycle := rfl
@[simp] theorem Arch.agcStep_faultCause (a : Arch) (x : Cplx) : (a.agcStep x).1.faultCause = a.faultCause := rfl
@[simp] theorem Arch.agcStep_sps (a : Arch) (x : Cplx) : (a.agcStep x).1.sps = a.sps := rfl
@[simp] theorem Arch.agcStep_loopBw (a : Arch) (x : Cplx) : (a.agcStep x).1.loopBw = a.loopBw := rfl
@[simp] theorem Arch.agcStep_loopDamp (a : Arch) (x : Cplx) : (a.agcStep x).1.loopDamp = a.loopDamp := rfl
@[simp] theorem Arch.agcStep_agcAlpha (a : Arch) (x : Cplx) : (a.agcStep x).1.agcAlpha = a.agcAlpha := rfl
@[simp] theorem Arch.agcStep_syncLen (a : Arch) (x : Cplx) : (a.agcStep x).1.syncLen = a.syncLen := rfl
@[simp] theorem Arch.agcStep_syncPatLo (a : Arch) (x : Cplx) : (a.agcStep x).1.syncPatLo = a.syncPatLo := rfl
@[simp] theorem Arch.agcStep_syncPatHi (a : Arch) (x : Cplx) : (a.agcStep x).1.syncPatHi = a.syncPatHi := rfl
@[simp] theorem Arch.agcStep_threshold (a : Arch) (x : Cplx) : (a.agcStep x).1.threshold = a.threshold := rfl
@[simp] theorem Arch.agcStep_pktLen (a : Arch) (x : Cplx) : (a.agcStep x).1.pktLen = a.pktLen := rfl
@[simp] theorem Arch.agcStep_lfsrPoly (a : Arch) (x : Cplx) : (a.agcStep x).1.lfsrPoly = a.lfsrPoly := rfl
@[simp] theorem Arch.agcStep_lfsrSeed (a : Arch) (x : Cplx) : (a.agcStep x).1.lfsrSeed = a.lfsrSeed := rfl
@[simp] theorem Arch.agcStep_rate (a : Arch) (x : Cplx) : (a.agcStep x).1.rate = a.rate := rfl
@[simp] theorem Arch.agcStep_kp (a : Arch) (x : Cplx) : (a.agcStep x).1.kp = a.kp := rfl
@[simp] theorem Arch.agcStep_ki (a : Arch) (x : Cplx) : (a.agcStep x).1.ki = a.ki := rfl
@[simp] theorem Arch.agcStep_agcOma (a : Arch) (x : Cplx) : (a.agcStep x).1.agcOma = a.agcOma := rfl
@[simp] theorem Arch.agcStep_nolock (a : Arch) (x : Cplx) : (a.agcStep x).1.nolock = a.nolock := rfl
@[simp] theorem Arch.agcStep_raw (a : Arch) (x : Cplx) : (a.agcStep x).1.raw = a.raw := rfl
@[simp] theorem Arch.agcStep_ih (a : Arch) (x : Cplx) : (a.agcStep x).1.ih = a.ih := rfl
@[simp] theorem Arch.agcStep_eh (a : Arch) (x : Cplx) : (a.agcStep x).1.eh = a.eh := rfl
@[simp] theorem Arch.agcStep_phase (a : Arch) (x : Cplx) : (a.agcStep x).1.phase = a.phase := rfl
@[simp] theorem Arch.agcStep_integ (a : Arch) (x : Cplx) : (a.agcStep x).1.integ = a.integ := rfl
@[simp] theorem Arch.agcStep_agcP (a : Arch) (x : Cplx) : (a.agcStep x).1.agcP = fadd (fmul a.agcAlpha (samplePower x)) (fmul a.agcOma a.agcP) := rfl
@[simp] theorem Arch.agcStep_gate (a : Arch) (x : Cplx) : (a.agcStep x).1.gate = a.gate := rfl
@[simp] theorem Arch.agcStep_pstate (a : Arch) (x : Cplx) : (a.agcStep x).1.pstate = a.pstate := rfl
@[simp] theorem Arch.agcStep_capidx (a : Arch) (x : Cplx) : (a.agcStep x).1.capidx = a.capidx := rfl
@[simp] theorem Arch.agcStep_payload (a : Arch) (x : Cplx) : (a.agcStep x).1.payload = a.payload := rfl
@[simp] theorem Arch.agcStep_pktAvail (a : Arch) (x : Cplx) : (a.agcStep x).1.pktAvail = a.pktAvail := rfl
@[simp] theorem Arch.agcStep_lfsr (a : Arch) (x : Cplx) : (a.agcStep x).1.lfsr = a.lfsr := rfl
@[simp] theorem Arch.agcStep_sampleCount (a : Arch) (x : Cplx) : (a.agcStep x).1.sampleCount = a.sampleCount := rfl
@[simp] theorem Arch.agcStep_packetCount (a : Arch) (x : Cplx) : (a.agcStep x).1.packetCount = a.packetCount := rfl
@[simp] theorem Arch.agcStep_pktSampleIndex (a : Arch) (x : Cplx) : (a.agcStep x).1.pktSampleIndex = a.pktSampleIndex := rfl

@[simp] theorem Arch.lfsrNext_lifecycle (a : Arch) : a.lfsrNext.1.lifecycle = a.lifecycle := rfl
@[simp] theorem Arch.lfsrNext_faultCause (a : Arch) : a.lfsrNext.1.faultCause = a.faultCause := rfl
@[simp] theorem Arch.lfsrNext_sps (a : Arch) : a.lfsrNext.1.sps = a.sps := rfl
@[simp] theorem Arch.lfsrNext_loopBw (a : Arch) : a.lfsrNext.1.loopBw = a.loopBw := rfl
@[simp] theorem Arch.lfsrNext_loopDamp (a : Arch) : a.lfsrNext.1.loopDamp = a.loopDamp := rfl
@[simp] theorem Arch.lfsrNext_agcAlpha (a : Arch) : a.lfsrNext.1.agcAlpha = a.agcAlpha := rfl
@[simp] theorem Arch.lfsrNext_syncLen (a : Arch) : a.lfsrNext.1.syncLen = a.syncLen := rfl
@[simp] theorem Arch.lfsrNext_syncPatLo (a : Arch) : a.lfsrNext.1.syncPatLo = a.syncPatLo := rfl
@[simp] theorem Arch.lfsrNext_syncPatHi (a : Arch) : a.lfsrNext.1.syncPatHi = a.syncPatHi := rfl
@[simp] theorem Arch.lfsrNext_threshold (a : Arch) : a.lfsrNext.1.threshold = a.threshold := rfl
@[simp] theorem Arch.lfsrNext_pktLen (a : Arch) : a.lfsrNext.1.pktLen = a.pktLen := rfl
@[simp] theorem Arch.lfsrNext_lfsrPoly (a : Arch) : a.lfsrNext.1.lfsrPoly = a.lfsrPoly := rfl
@[simp] theorem Arch.lfsrNext_lfsrSeed (a : Arch) : a.lfsrNext.1.lfsrSeed = a.lfsrSeed := rfl
@[simp] theorem Arch.lfsrNext_rate (a : Arch) : a.lfsrNext.1.rate = a.rate := rfl
@[simp] theorem Arch.lfsrNext_kp (a : Arch) : a.lfsrNext.1.kp = a.kp := rfl
@[simp] theorem Arch.lfsrNext_ki (a : Arch) : a.lfsrNext.1.ki = a.ki := rfl
@[simp] theorem Arch.lfsrNext_agcOma (a : Arch) : a.lfsrNext.1.agcOma = a.agcOma := rfl
@[simp] theorem Arch.lfsrNext_nolock (a : Arch) : a.lfsrNext.1.nolock = a.nolock := rfl
@[simp] theorem Arch.lfsrNext_raw (a : Arch) : a.lfsrNext.1.raw = a.raw := rfl
@[simp] theorem Arch.lfsrNext_ih (a : Arch) : a.lfsrNext.1.ih = a.ih := rfl
@[simp] theorem Arch.lfsrNext_eh (a : Arch) : a.lfsrNext.1.eh = a.eh := rfl
@[simp] theorem Arch.lfsrNext_phase (a : Arch) : a.lfsrNext.1.phase = a.phase := rfl
@[simp] theorem Arch.lfsrNext_integ (a : Arch) : a.lfsrNext.1.integ = a.integ := rfl
@[simp] theorem Arch.lfsrNext_agcP (a : Arch) : a.lfsrNext.1.agcP = a.agcP := rfl
@[simp] theorem Arch.lfsrNext_gate (a : Arch) : a.lfsrNext.1.gate = a.gate := rfl
@[simp] theorem Arch.lfsrNext_pstate (a : Arch) : a.lfsrNext.1.pstate = a.pstate := rfl
@[simp] theorem Arch.lfsrNext_capidx (a : Arch) : a.lfsrNext.1.capidx = a.capidx := rfl
@[simp] theorem Arch.lfsrNext_payload (a : Arch) : a.lfsrNext.1.payload = a.payload := rfl
@[simp] theorem Arch.lfsrNext_pktAvail (a : Arch) : a.lfsrNext.1.pktAvail = a.pktAvail := rfl
@[simp] theorem Arch.lfsrNext_lfsr (a : Arch) : a.lfsrNext.1.lfsr = lfsrShift a.lfsrPoly a.lfsr := rfl
@[simp] theorem Arch.lfsrNext_sampleCount (a : Arch) : a.lfsrNext.1.sampleCount = a.sampleCount := rfl
@[simp] theorem Arch.lfsrNext_packetCount (a : Arch) : a.lfsrNext.1.packetCount = a.packetCount := rfl
@[simp] theorem Arch.lfsrNext_pktSampleIndex (a : Arch) : a.lfsrNext.1.pktSampleIndex = a.pktSampleIndex := rfl

@[simp] theorem Arch.lfsrReseed_lifecycle (a : Arch) : a.lfsrReseed.lifecycle = a.lifecycle := rfl
@[simp] theorem Arch.lfsrReseed_faultCause (a : Arch) : a.lfsrReseed.faultCause = a.faultCause := rfl
@[simp] theorem Arch.lfsrReseed_sps (a : Arch) : a.lfsrReseed.sps = a.sps := rfl
@[simp] theorem Arch.lfsrReseed_loopBw (a : Arch) : a.lfsrReseed.loopBw = a.loopBw := rfl
@[simp] theorem Arch.lfsrReseed_loopDamp (a : Arch) : a.lfsrReseed.loopDamp = a.loopDamp := rfl
@[simp] theorem Arch.lfsrReseed_agcAlpha (a : Arch) : a.lfsrReseed.agcAlpha = a.agcAlpha := rfl
@[simp] theorem Arch.lfsrReseed_syncLen (a : Arch) : a.lfsrReseed.syncLen = a.syncLen := rfl
@[simp] theorem Arch.lfsrReseed_syncPatLo (a : Arch) : a.lfsrReseed.syncPatLo = a.syncPatLo := rfl
@[simp] theorem Arch.lfsrReseed_syncPatHi (a : Arch) : a.lfsrReseed.syncPatHi = a.syncPatHi := rfl
@[simp] theorem Arch.lfsrReseed_threshold (a : Arch) : a.lfsrReseed.threshold = a.threshold := rfl
@[simp] theorem Arch.lfsrReseed_pktLen (a : Arch) : a.lfsrReseed.pktLen = a.pktLen := rfl
@[simp] theorem Arch.lfsrReseed_lfsrPoly (a : Arch) : a.lfsrReseed.lfsrPoly = a.lfsrPoly := rfl
@[simp] theorem Arch.lfsrReseed_lfsrSeed (a : Arch) : a.lfsrReseed.lfsrSeed = a.lfsrSeed := rfl
@[simp] theorem Arch.lfsrReseed_rate (a : Arch) : a.lfsrReseed.rate = a.rate := rfl
@[simp] theorem Arch.lfsrReseed_kp (a : Arch) : a.lfsrReseed.kp = a.kp := rfl
@[simp] theorem Arch.lfsrReseed_ki (a : Arch) : a.lfsrReseed.ki = a.ki := rfl
@[simp] theorem Arch.lfsrReseed_agcOma (a : Arch) : a.lfsrReseed.agcOma = a.agcOma := rfl
@[simp] theorem Arch.lfsrReseed_nolock (a : Arch) : a.lfsrReseed.nolock = a.nolock := rfl
@[simp] theorem Arch.lfsrReseed_raw (a : Arch) : a.lfsrReseed.raw = a.raw := rfl
@[simp] theorem Arch.lfsrReseed_ih (a : Arch) : a.lfsrReseed.ih = a.ih := rfl
@[simp] theorem Arch.lfsrReseed_eh (a : Arch) : a.lfsrReseed.eh = a.eh := rfl
@[simp] theorem Arch.lfsrReseed_phase (a : Arch) : a.lfsrReseed.phase = a.phase := rfl
@[simp] theorem Arch.lfsrReseed_integ (a : Arch) : a.lfsrReseed.integ = a.integ := rfl
@[simp] theorem Arch.lfsrReseed_agcP (a : Arch) : a.lfsrReseed.agcP = a.agcP := rfl
@[simp] theorem Arch.lfsrReseed_gate (a : Arch) : a.lfsrReseed.gate = a.gate := rfl
@[simp] theorem Arch.lfsrReseed_pstate (a : Arch) : a.lfsrReseed.pstate = a.pstate := rfl
@[simp] theorem Arch.lfsrReseed_capidx (a : Arch) : a.lfsrReseed.capidx = a.capidx := rfl
@[simp] theorem Arch.lfsrReseed_payload (a : Arch) : a.lfsrReseed.payload = a.payload := rfl
@[simp] theorem Arch.lfsrReseed_pktAvail (a : Arch) : a.lfsrReseed.pktAvail = a.pktAvail := rfl
@[simp] theorem Arch.lfsrReseed_lfsr (a : Arch) : a.lfsrReseed.lfsr = a.lfsrSeed := rfl
@[simp] theorem Arch.lfsrReseed_sampleCount (a : Arch) : a.lfsrReseed.sampleCount = a.sampleCount := rfl
@[simp] theorem Arch.lfsrReseed_packetCount (a : Arch) : a.lfsrReseed.packetCount = a.packetCount := rfl
@[simp] theorem Arch.lfsrReseed_pktSampleIndex (a : Arch) : a.lfsrReseed.pktSampleIndex = a.pktSampleIndex := rfl

@[simp] theorem Arch.corrStep_lifecycle (a : Arch) (s : Bool) : (a.corrStep s).1.lifecycle = a.lifecycle := rfl
@[simp] theorem Arch.corrStep_faultCause (a : Arch) (s : Bool) : (a.corrStep s).1.faultCause = a.faultCause := rfl
@[simp] theorem Arch.corrStep_sps (a : Arch) (s : Bool) : (a.corrStep s).1.sps = a.sps := rfl
@[simp] theorem Arch.corrStep_loopBw (a : Arch) (s : Bool) : (a.corrStep s).1.loopBw = a.loopBw := rfl
@[simp] theorem Arch.corrStep_loopDamp (a : Arch) (s : Bool) : (a.corrStep s).1.loopDamp = a.loopDamp := rfl
@[simp] theorem Arch.corrStep_agcAlpha (a : Arch) (s : Bool) : (a.corrStep s).1.agcAlpha = a.agcAlpha := rfl
@[simp] theorem Arch.corrStep_syncLen (a : Arch) (s : Bool) : (a.corrStep s).1.syncLen = a.syncLen := rfl
@[simp] theorem Arch.corrStep_syncPatLo (a : Arch) (s : Bool) : (a.corrStep s).1.syncPatLo = a.syncPatLo := rfl
@[simp] theorem Arch.corrStep_syncPatHi (a : Arch) (s : Bool) : (a.corrStep s).1.syncPatHi = a.syncPatHi := rfl
@[simp] theorem Arch.corrStep_threshold (a : Arch) (s : Bool) : (a.corrStep s).1.threshold = a.threshold := rfl
@[simp] theorem Arch.corrStep_pktLen (a : Arch) (s : Bool) : (a.corrStep s).1.pktLen = a.pktLen := rfl
@[simp] theorem Arch.corrStep_lfsrPoly (a : Arch) (s : Bool) : (a.corrStep s).1.lfsrPoly = a.lfsrPoly := rfl
@[simp] theorem Arch.corrStep_lfsrSeed (a : Arch) (s : Bool) : (a.corrStep s).1.lfsrSeed = a.lfsrSeed := rfl
@[simp] theorem Arch.corrStep_rate (a : Arch) (s : Bool) : (a.corrStep s).1.rate = a.rate := rfl
@[simp] theorem Arch.corrStep_kp (a : Arch) (s : Bool) : (a.corrStep s).1.kp = a.kp := rfl
@[simp] theorem Arch.corrStep_ki (a : Arch) (s : Bool) : (a.corrStep s).1.ki = a.ki := rfl
@[simp] theorem Arch.corrStep_agcOma (a : Arch) (s : Bool) : (a.corrStep s).1.agcOma = a.agcOma := rfl
@[simp] theorem Arch.corrStep_nolock (a : Arch) (s : Bool) : (a.corrStep s).1.nolock = a.nolock := rfl
@[simp] theorem Arch.corrStep_raw (a : Arch) (s : Bool) : (a.corrStep s).1.raw = a.raw := rfl
@[simp] theorem Arch.corrStep_ih (a : Arch) (s : Bool) : (a.corrStep s).1.ih = a.ih := rfl
@[simp] theorem Arch.corrStep_eh (a : Arch) (s : Bool) : (a.corrStep s).1.eh = corrPush a.syncN a.pattern s a.eh := rfl
@[simp] theorem Arch.corrStep_phase (a : Arch) (s : Bool) : (a.corrStep s).1.phase = a.phase := rfl
@[simp] theorem Arch.corrStep_integ (a : Arch) (s : Bool) : (a.corrStep s).1.integ = a.integ := rfl
@[simp] theorem Arch.corrStep_agcP (a : Arch) (s : Bool) : (a.corrStep s).1.agcP = a.agcP := rfl
@[simp] theorem Arch.corrStep_gate (a : Arch) (s : Bool) : (a.corrStep s).1.gate = a.gate := rfl
@[simp] theorem Arch.corrStep_pstate (a : Arch) (s : Bool) : (a.corrStep s).1.pstate = a.pstate := rfl
@[simp] theorem Arch.corrStep_capidx (a : Arch) (s : Bool) : (a.corrStep s).1.capidx = a.capidx := rfl
@[simp] theorem Arch.corrStep_payload (a : Arch) (s : Bool) : (a.corrStep s).1.payload = a.payload := rfl
@[simp] theorem Arch.corrStep_pktAvail (a : Arch) (s : Bool) : (a.corrStep s).1.pktAvail = a.pktAvail := rfl
@[simp] theorem Arch.corrStep_lfsr (a : Arch) (s : Bool) : (a.corrStep s).1.lfsr = a.lfsr := rfl
@[simp] theorem Arch.corrStep_sampleCount (a : Arch) (s : Bool) : (a.corrStep s).1.sampleCount = a.sampleCount := rfl
@[simp] theorem Arch.corrStep_packetCount (a : Arch) (s : Bool) : (a.corrStep s).1.packetCount = a.packetCount := rfl
@[simp] theorem Arch.corrStep_pktSampleIndex (a : Arch) (s : Bool) : (a.corrStep s).1.pktSampleIndex = a.pktSampleIndex := rfl

@[simp] theorem Arch.corrReset_lifecycle (a : Arch) : a.corrReset.1.lifecycle = a.lifecycle := rfl
@[simp] theorem Arch.corrReset_faultCause (a : Arch) : a.corrReset.1.faultCause = a.faultCause := rfl
@[simp] theorem Arch.corrReset_sps (a : Arch) : a.corrReset.1.sps = a.sps := rfl
@[simp] theorem Arch.corrReset_loopBw (a : Arch) : a.corrReset.1.loopBw = a.loopBw := rfl
@[simp] theorem Arch.corrReset_loopDamp (a : Arch) : a.corrReset.1.loopDamp = a.loopDamp := rfl
@[simp] theorem Arch.corrReset_agcAlpha (a : Arch) : a.corrReset.1.agcAlpha = a.agcAlpha := rfl
@[simp] theorem Arch.corrReset_syncLen (a : Arch) : a.corrReset.1.syncLen = a.syncLen := rfl
@[simp] theorem Arch.corrReset_syncPatLo (a : Arch) : a.corrReset.1.syncPatLo = a.syncPatLo := rfl
@[simp] theorem Arch.corrReset_syncPatHi (a : Arch) : a.corrReset.1.syncPatHi = a.syncPatHi := rfl
@[simp] theorem Arch.corrReset_threshold (a : Arch) : a.corrReset.1.threshold = a.threshold := rfl
@[simp] theorem Arch.corrReset_pktLen (a : Arch) : a.corrReset.1.pktLen = a.pktLen := rfl
@[simp] theorem Arch.corrReset_lfsrPoly (a : Arch) : a.corrReset.1.lfsrPoly = a.lfsrPoly := rfl
@[simp] theorem Arch.corrReset_lfsrSeed (a : Arch) : a.corrReset.1.lfsrSeed = a.lfsrSeed := rfl
@[simp] theorem Arch.corrReset_rate (a : Arch) : a.corrReset.1.rate = a.rate := rfl
@[simp] theorem Arch.corrReset_kp (a : Arch) : a.corrReset.1.kp = a.kp := rfl
@[simp] theorem Arch.corrReset_ki (a : Arch) : a.corrReset.1.ki = a.ki := rfl
@[simp] theorem Arch.corrReset_agcOma (a : Arch) : a.corrReset.1.agcOma = a.agcOma := rfl
@[simp] theorem Arch.corrReset_nolock (a : Arch) : a.corrReset.1.nolock = a.nolock := rfl
@[simp] theorem Arch.corrReset_raw (a : Arch) : a.corrReset.1.raw = a.raw := rfl
@[simp] theorem Arch.corrReset_ih (a : Arch) : a.corrReset.1.ih = a.ih := rfl
@[simp] theorem Arch.corrReset_phase (a : Arch) : a.corrReset.1.phase = a.phase := rfl
@[simp] theorem Arch.corrReset_integ (a : Arch) : a.corrReset.1.integ = a.integ := rfl
@[simp] theorem Arch.corrReset_agcP (a : Arch) : a.corrReset.1.agcP = a.agcP := rfl
@[simp] theorem Arch.corrReset_gate (a : Arch) : a.corrReset.1.gate = a.gate := rfl
@[simp] theorem Arch.corrReset_pstate (a : Arch) : a.corrReset.1.pstate = a.pstate := rfl
@[simp] theorem Arch.corrReset_capidx (a : Arch) : a.corrReset.1.capidx = a.capidx := rfl
@[simp] theorem Arch.corrReset_payload (a : Arch) : a.corrReset.1.payload = a.payload := rfl
@[simp] theorem Arch.corrReset_pktAvail (a : Arch) : a.corrReset.1.pktAvail = a.pktAvail := rfl
@[simp] theorem Arch.corrReset_lfsr (a : Arch) : a.corrReset.1.lfsr = a.lfsr := rfl
@[simp] theorem Arch.corrReset_sampleCount (a : Arch) : a.corrReset.1.sampleCount = a.sampleCount := rfl
@[simp] theorem Arch.corrReset_packetCount (a : Arch) : a.corrReset.1.packetCount = a.packetCount := rfl
@[simp] theorem Arch.corrReset_pktSampleIndex (a : Arch) : a.corrReset.1.pktSampleIndex = a.pktSampleIndex := rfl

@[simp] theorem Arch.descramble_lifecycle (a : Arch) : a.descramble.lifecycle = a.lifecycle := rfl
@[simp] theorem Arch.descramble_faultCause (a : Arch) : a.descramble.faultCause = a.faultCause := rfl
@[simp] theorem Arch.descramble_sps (a : Arch) : a.descramble.sps = a.sps := rfl
@[simp] theorem Arch.descramble_loopBw (a : Arch) : a.descramble.loopBw = a.loopBw := rfl
@[simp] theorem Arch.descramble_loopDamp (a : Arch) : a.descramble.loopDamp = a.loopDamp := rfl
@[simp] theorem Arch.descramble_agcAlpha (a : Arch) : a.descramble.agcAlpha = a.agcAlpha := rfl
@[simp] theorem Arch.descramble_syncLen (a : Arch) : a.descramble.syncLen = a.syncLen := rfl
@[simp] theorem Arch.descramble_syncPatLo (a : Arch) : a.descramble.syncPatLo = a.syncPatLo := rfl
@[simp] theorem Arch.descramble_syncPatHi (a : Arch) : a.descramble.syncPatHi = a.syncPatHi := rfl
@[simp] theorem Arch.descramble_threshold (a : Arch) : a.descramble.threshold = a.threshold := rfl
@[simp] theorem Arch.descramble_pktLen (a : Arch) : a.descramble.pktLen = a.pktLen := rfl
@[simp] theorem Arch.descramble_lfsrPoly (a : Arch) : a.descramble.lfsrPoly = a.lfsrPoly := rfl
@[simp] theorem Arch.descramble_lfsrSeed (a : Arch) : a.descramble.lfsrSeed = a.lfsrSeed := rfl
@[simp] theorem Arch.descramble_rate (a : Arch) : a.descramble.rate = a.rate := rfl
@[simp] theorem Arch.descramble_kp (a : Arch) : a.descramble.kp = a.kp := rfl
@[simp] theorem Arch.descramble_ki (a : Arch) : a.descramble.ki = a.ki := rfl
@[simp] theorem Arch.descramble_agcOma (a : Arch) : a.descramble.agcOma = a.agcOma := rfl
@[simp] theorem Arch.descramble_nolock (a : Arch) : a.descramble.nolock = a.nolock := rfl
@[simp] theorem Arch.descramble_raw (a : Arch) : a.descramble.raw = a.raw := rfl
@[simp] theorem Arch.descramble_ih (a : Arch) : a.descramble.ih = a.ih := rfl
@[simp] theorem Arch.descramble_eh (a : Arch) : a.descramble.eh = a.eh := rfl
@[simp] theorem Arch.descramble_phase (a : Arch) : a.descramble.phase = a.phase := rfl
@[simp] theorem Arch.descramble_integ (a : Arch) : a.descramble.integ = a.integ := rfl
@[simp] theorem Arch.descramble_agcP (a : Arch) : a.descramble.agcP = a.agcP := rfl
@[simp] theorem Arch.descramble_gate (a : Arch) : a.descramble.gate = a.gate := rfl
@[simp] theorem Arch.descramble_pstate (a : Arch) : a.descramble.pstate = a.pstate := rfl
@[simp] theorem Arch.descramble_capidx (a : Arch) : a.descramble.capidx = a.capidx := rfl
@[simp] theorem Arch.descramble_pktAvail (a : Arch) : a.descramble.pktAvail = a.pktAvail := rfl
@[simp] theorem Arch.descramble_sampleCount (a : Arch) : a.descramble.sampleCount = a.sampleCount := rfl
@[simp] theorem Arch.descramble_packetCount (a : Arch) : a.descramble.packetCount = a.packetCount := rfl
@[simp] theorem Arch.descramble_pktSampleIndex (a : Arch) : a.descramble.pktSampleIndex = a.pktSampleIndex := rfl

@[simp] theorem Arch.corrReset_eh_cur (a : Arch) : a.corrReset.1.eh.cur = a.eh.cur := rfl
@[simp] theorem Arch.applyReset_eq (a : Arch) : a.applyReset = Arch.reset := rfl

/-! ## Logical sizes under updates -/

@[simp] theorem Arch.advanceBy_syncN (a : Arch) (d : Word) : (a.advanceBy d).1.syncN = a.syncN := by
  simp [Arch.syncN]
@[simp] theorem Arch.advanceBy_pktL (a : Arch) (d : Word) : (a.advanceBy d).1.pktL = a.pktL := by
  simp [Arch.pktL]
@[simp] theorem Arch.corrStep_syncN (a : Arch) (s : Bool) : (a.corrStep s).1.syncN = a.syncN := rfl
@[simp] theorem Arch.corrStep_pattern (a : Arch) (s : Bool) : (a.corrStep s).1.pattern = a.pattern := rfl
@[simp] theorem Arch.corrReset_syncN (a : Arch) : a.corrReset.1.syncN = a.syncN := rfl
@[simp] theorem Arch.descramble_pktL (a : Arch) : a.descramble.pktL = a.pktL := rfl

end Sys2Proof.Machine
end

