-- ==== Sys2Proof/Laws/Ops.lean ====
section
/-! SUPPORT. What each shared operation of Machine/Ops.lean can do, said once. -/

namespace Sys2Proof.Machine

/-! ## Outcomes -/

@[simp] theorem finish_ok (o : Opcode) (s : State) (a : Arch) (r : Reply) :
    finish o s (.ok a r) = .next ((s.withArch a).send (okWords o r)) := rfl
@[simp] theorem finish_raise (o : Opcode) (s : State) (rc : ResultCode) :
    finish o s (.raise rc) = .next (s.send (errorWords o.byte rc)) := rfl
@[simp] theorem finish_diverge (o : Opcode) (s : State) (a : Arch) :
    finish o s (.diverge a)
      = .next ((s.withArch a.takeDivergence).send (errorWords o.byte .diverged)) := rfl

/-- Every command ends in a next state. -/
theorem finish_next (o : Opcode) (s : State) (r : CmdResult) : ∃ t, finish o s r = .next t := by
  cases r <;> exact ⟨_, rfl⟩

/-- Everything a finished command can be. -/
theorem finish_cases {o : Opcode} {s t : State} {r : CmdResult} (h : finish o s r = .next t) :
    (∃ a rep, r = .ok a rep ∧ t = (s.withArch a).send (okWords o rep)) ∨
    (∃ rc, r = .raise rc ∧ t = s.send (errorWords o.byte rc)) ∨
    (∃ a, r = .diverge a ∧
      t = (s.withArch a.takeDivergence).send (errorWords o.byte .diverged)) := by
  cases r with
  | ok a rep => exact .inl ⟨a, rep, rfl, by simpa using h.symm⟩
  | raise rc => exact .inr (.inl ⟨rc, rfl, by simpa using h.symm⟩)
  | diverge a => exact .inr (.inr ⟨a, rfl, by simpa using h.symm⟩)

/-- A command touches neither the words in transit nor what the host will do. -/
theorem finish_ports {o : Opcode} {s t : State} {r : CmdResult} (h : finish o s r = .next t) :
    t.taken = s.taken ∧ t.cmdPort = s.cmdPort := by
  obtain ⟨a, rep, -, rfl⟩ | ⟨rc, -, rfl⟩ | ⟨a, -, rfl⟩ := finish_cases h <;> simp

/-! ## The class check -/

/-- A command refused by its class, or its work done. -/
theorem runCmd_eq (o : Opcode) (s : State) (body : Arch → CmdResult) :
    (∃ rc, classError (cmdClass o) s.arch.lifecycle = some rc ∧
      runCmd o s body = .next (s.send (errorWords o.byte rc))) ∨
    (classError (cmdClass o) s.arch.lifecycle = none ∧
      runCmd o s body = finish o s (body s.arch)) := by
  unfold runCmd gated
  cases h : classError (cmdClass o) s.arch.lifecycle with
  | some rc => exact .inl ⟨rc, rfl, rfl⟩
  | none => exact .inr ⟨rfl, rfl⟩

theorem runCmd_run {o : Opcode} {s : State} {body : Arch → CmdResult}
    (h : classError (cmdClass o) s.arch.lifecycle = none) :
    runCmd o s body = finish o s (body s.arch) := by
  simp [runCmd, gated, h]

theorem runCmd_refused {o : Opcode} {s : State} {body : Arch → CmdResult} {rc : ResultCode}
    (h : classError (cmdClass o) s.arch.lifecycle = some rc) :
    runCmd o s body = .next (s.send (errorWords o.byte rc)) := by
  simp [runCmd, gated, h]

theorem runCmd_next (o : Opcode) (s : State) (body : Arch → CmdResult) :
    ∃ t, runCmd o s body = .next t := finish_next _ _ _

theorem runCmd_ports {o : Opcode} {s t : State} {body : Arch → CmdResult}
    (h : runCmd o s body = .next t) : t.taken = s.taken ∧ t.cmdPort = s.cmdPort :=
  finish_ports h

/-! ## Circular buffers -/

section
variable {α : Type} {n : Nat} {b : CBuf α} {v : α}

@[simp] theorem CBuf.push_length : (b.push n v).data.length = b.data.length := by simp [CBuf.push]
@[simp] theorem CBuf.push_data : (b.push n v).data = b.data.set b.cur v := rfl
@[simp] theorem CBuf.push_cur : (b.push n v).cur = (b.cur + 1) % n := rfl

theorem CBuf.push_cur_lt (hn : 0 < n) : (b.push n v).cur < n := Nat.mod_lt _ hn

theorem CBuf.slot_lt (hn : 0 < n) (k : Int) : b.slot n k < n := by
  unfold CBuf.slot
  have h1 := Int.emod_nonneg ((b.cur : Int) - 1 + k) (b := (n : Int)) (by omega)
  have h2 := Int.emod_lt_of_pos ((b.cur : Int) - 1 + k) (b := (n : Int)) (by omega)
  omega

/-- Offset 0 of a signed read is the slot before the cursor. -/
theorem CBuf.slot_push_zero (hc : b.cur < n) : (b.push n v).slot n 0 = b.cur := by
  unfold CBuf.slot
  rw [CBuf.push_cur]
  rcases Nat.lt_or_ge (b.cur + 1) n with h | h
  · rw [Nat.mod_eq_of_lt h]
    have : ((b.cur + 1 : Nat) : Int) - 1 + 0 = (b.cur : Int) := by omega
    rw [this, Int.emod_eq_of_lt (by omega) (by omega)]
    omega
  · have hn : b.cur + 1 = n := by omega
    rw [hn, Nat.mod_self]
    have : ((0 : Nat) : Int) - 1 + 0 = (b.cur : Int) + (n : Int) * (-1) := by omega
    rw [this, Int.add_mul_emod_self_left, Int.emod_eq_of_lt (by omega) (by omega)]
    omega

variable [Inhabited α]

theorem CBuf.slotVal_set (i j : Nat) (hi : i < b.data.length) :
    ({ b with data := b.data.set i v } : CBuf α).slotVal j = if i = j then v else b.slotVal j := by
  unfold CBuf.slotVal
  by_cases h : i = j
  · subst h; simp [List.getD_eq_getElem?_getD, hi]
  · simp [List.getD_eq_getElem?_getD, h]

/-- A signed read is refused exactly outside -N ≤ k < N (41 R142). -/
theorem CBuf.rds_eq_none {k : Int} : b.rds n k = none ↔ ¬(-(n : Int) ≤ k ∧ k < n) := by
  unfold CBuf.rds; split <;> simp_all

/-- An unsigned read is refused exactly above N (41 R143). -/
theorem CBuf.rdu_eq_none {j : Nat} : b.rdu n j = none ↔ n < j := by
  unfold CBuf.rdu; split <;> simp_all

theorem CBuf.rds_of_range {k : Int} (h1 : -(n : Int) ≤ k) (h2 : k < n) :
    b.rds n k = some (b.getS n k) := by simp [CBuf.rds, h1, h2]

theorem CBuf.rdu_of_range {j : Nat} (h : j ≤ n) : b.rdu n j = some (b.getU n j) := by
  simp [CBuf.rdu, h]

end

/-! ## Bits of the payload -/

/-- A bit write writes its bit and no other. -/
theorem getLsbD_setBit {w : Nat} (v : BitVec w) (i j : Nat) (b : Bool) :
    (setBit v i b).getLsbD j = if i = j ∧ i < w then b else v.getLsbD j := by
  unfold setBit
  by_cases hj : j < w
  · by_cases hij : i = j
    · subst hij
      cases b <;> simp [hj]
    · rcases Nat.lt_or_gt_of_ne hij with h | h
      · have : j - i ≠ 0 := by omega
        cases b <;> simp [hj, hij, this]
      · cases b <;> simp [hj, hij, h]
  · have : v.getLsbD j = false := BitVec.getLsbD_of_ge _ _ (by omega)
    rw [BitVec.getLsbD_of_ge _ _ (by omega), this]
    split
    · omega
    · rfl

end Sys2Proof.Machine
end

