-- ==== Sys2Proof/Laws/Units.lean ====
section
/-! SUPPORT. What each unit's operation can do, said once: the cases of the phase clock, the synchronizer
and the packetizer, the counts of the correlator, the bits of the descrambler. -/

namespace Sys2Proof.Machine

/-! ## Phase clock (42 R160) -/

/-- Either the sum reached TAU and is reduced once, or it is the new phase as it is. -/
theorem Arch.advanceBy_cases (a : Arch) (d : Word) :
    (fge (fadd a.phase d) Config.tau = true ∧
      a.advanceBy d = ({ a with phase := fsub (fadd a.phase d) Config.tau },
        some (fsub (fadd a.phase d) Config.tau))) ∨
    (fge (fadd a.phase d) Config.tau = false ∧
      a.advanceBy d = ({ a with phase := fadd a.phase d }, none)) := by
  unfold Arch.advanceBy
  cases h : fge (fadd a.phase d) Config.tau
  · exact .inr ⟨rfl, by simp [h]⟩
  · exact .inl ⟨rfl, by simp [h]⟩

theorem Arch.tick_eq (a : Arch) : a.tick = a.advanceBy a.rate := rfl

/-! ## Symbol synchronizer (47 R220) -/

/-- A step without an overrun pushes the sample and advances the clock. -/
theorem Arch.ssStep_none {a : Arch} {x : Cplx} (h : (a.pushRaw x).tick.2 = none) :
    a.ssStep x = ((a.pushRaw x).tick.1, .nothing) := by
  simp [Arch.ssStep, h]

theorem Arch.ssStep_some {a : Arch} {x : Cplx} {v : Word} (h : (a.pushRaw x).tick.2 = some v) :
    a.ssStep x = (a.pushRaw x).tick.1.syncCorrect v := by
  simp [Arch.ssStep, h]

/-- The state a synchronizer step has reached when it applies its correction, and the correction. -/
def syncFiltered (a : Arch) (overrun : Word) : Arch × Word :=
  let a1 := a.pushIh (interpolate a.raw (fdiv overrun Config.tau))
  a1.piUpdate (gardner a1.ih)

/-- Everything the correcting part of a step can do. -/
theorem Arch.syncCorrect_cases (a : Arch) (v : Word) :
    (∃ w, ((syncFiltered a v).1.advanceBy (syncFiltered a v).2).2 = some w ∧
      a.syncCorrect v = (((syncFiltered a v).1.advanceBy (syncFiltered a v).2).1, .diverged)) ∨
    (((syncFiltered a v).1.advanceBy (syncFiltered a v).2).2 = none ∧
      a.syncCorrect v = ((syncFiltered a v).1.advanceBy (syncFiltered a v).2).1.toggleGate
        (interpolate a.raw (fdiv v Config.tau))) := by
  unfold Arch.syncCorrect
  simp only [syncFiltered]
  cases h : (((a.pushIh (interpolate a.raw (fdiv v Config.tau))).piUpdate
      (gardner (a.pushIh (interpolate a.raw (fdiv v Config.tau))).ih)).1.advanceBy
      ((a.pushIh (interpolate a.raw (fdiv v Config.tau))).piUpdate
      (gardner (a.pushIh (interpolate a.raw (fdiv v Config.tau))).ih)).2).2 <;> simp

/-! ## Correlator (48 R241, R242) -/

section
variable {n : Nat} {eh : CBuf Word}

/-- The slot of the offset -i is the slot of the unsigned offset N - 1 - i. -/
theorem CBuf.slot_neg {α : Type} {b : CBuf α} {i : Nat} (hi : i < n) :
    b.slot n (-(i : Int)) = (b.cur + (n - 1 - i)) % n := by
  unfold CBuf.slot
  have : (b.cur : Int) - 1 + -(i : Int) = ((b.cur + (n - 1 - i) : Nat) : Int) + (n : Int) * (-1) := by
    omega
  rw [this, Int.add_mul_emod_self_left, ← Int.natCast_emod, Int.toNat_natCast]

theorem CBuf.getS_neg {α : Type} [Inhabited α] {b : CBuf α} {i : Nat} (hi : i < n) :
    b.getS n (-(i : Int)) = b.getU n (n - 1 - i) := by
  unfold CBuf.getS CBuf.getU; rw [CBuf.slot_neg hi]

/-- Different offsets in -(N-1) .. 0 name different slots. -/
theorem CBuf.slot_neg_inj {α : Type} {b : CBuf α} {i j : Nat} (hi : i < n) (hj : j < n)
    (h : b.slot n (-(i : Int)) = b.slot n (-(j : Int))) : i = j := by
  rw [CBuf.slot_neg hi, CBuf.slot_neg hj] at h
  have h2 : (n - 1 - i) % n = (n - 1 - j) % n := Nat.ModEq.add_left_cancel' b.cur h
  rw [Nat.mod_eq_of_lt (by omega), Nat.mod_eq_of_lt (by omega)] at h2
  omega

/-- After a push the offset -(i+1) names the slot that -i named before. -/
theorem CBuf.slot_push_succ {α : Type} {b : CBuf α} {v : α} {i : Nat} (hi : i + 1 < n) :
    (b.push n v).slot n (-((i + 1 : Nat) : Int)) = b.slot n (-(i : Int)) := by
  rw [CBuf.slot_neg hi, CBuf.slot_neg (by omega), CBuf.push_cur, Nat.mod_add_mod]
  congr 1; omega

/-- The newest element after a push is the one pushed. -/
theorem CBuf.getS_push_zero {α : Type} [Inhabited α] {b : CBuf α} {v : α} (hc : b.cur < n)
    (hn : n ≤ b.data.length) : (b.push n v).getS n 0 = v := by
  unfold CBuf.getS
  rw [CBuf.slot_push_zero hc]
  simp [CBuf.slotVal, List.getD_eq_getElem?_getD, show b.cur < b.data.length by omega]

/-- The other elements move one offset back. -/
theorem CBuf.getS_push_succ {α : Type} [Inhabited α] {b : CBuf α} {v : α} {i : Nat}
    (hc : b.cur < n) (hn : n ≤ b.data.length) (hi : i + 1 < n) :
    (b.push n v).getS n (-((i + 1 : Nat) : Int)) = b.getS n (-(i : Int)) := by
  unfold CBuf.getS
  rw [CBuf.slot_push_succ hi]
  have hne : b.cur ≠ b.slot n (-(i : Int)) := by
    rw [CBuf.slot_neg (by omega)]
    rcases Nat.lt_or_ge (b.cur + (n - 1 - i)) n with h | h
    · rw [Nat.mod_eq_of_lt h]; omega
    · rw [Nat.mod_eq_sub_mod h, Nat.mod_eq_of_lt (by omega)]; omega
  have := CBuf.slotVal_set (b := b) (v := v) b.cur (b.slot n (-(i : Int))) (by omega)
  rw [if_neg hne] at this
  exact this

@[simp] theorem bumpCount_cur (idx : Nat) : (bumpCount n eh idx).cur = eh.cur := rfl
@[simp] theorem bumpCount_length (idx : Nat) :
    (bumpCount n eh idx).data.length = eh.data.length := by simp [bumpCount]
@[simp] theorem corrPosition_cur (pat : Nat → Bool) (s : Bool) (idx : Nat) :
    (corrPosition n pat s eh idx).cur = eh.cur := by unfold corrPosition; split <;> rfl
@[simp] theorem corrPosition_length (pat : Nat → Bool) (s : Bool) (idx : Nat) :
    (corrPosition n pat s eh idx).data.length = eh.data.length := by
  unfold corrPosition; split <;> simp

@[simp] theorem corrPositions_cur (pat : Nat → Bool) (s : Bool) (l : List Nat) :
    (l.foldl (corrPosition n pat s) eh).cur = eh.cur := by
  induction l generalizing eh with
  | nil => rfl
  | cons i l ih => simp [ih]

@[simp] theorem corrPositions_length (pat : Nat → Bool) (s : Bool) (l : List Nat) :
    (l.foldl (corrPosition n pat s) eh).data.length = eh.data.length := by
  induction l generalizing eh with
  | nil => rfl
  | cons i l ih => simp [ih]

@[simp] theorem corrPush_cur (pat : Nat → Bool) (s : Bool) :
    (corrPush n pat s eh).cur = (eh.cur + 1) % n := by simp [corrPush]
@[simp] theorem corrPush_length (pat : Nat → Bool) (s : Bool) :
    (corrPush n pat s eh).data.length = eh.data.length := by simp [corrPush]

theorem corrPosition_slotVal (hn : 0 < n) (hl : n ≤ eh.data.length) (pat : Nat → Bool) (s : Bool)
    (idx j : Nat) :
    (corrPosition n pat s eh idx).slotVal j =
      if eh.slot n (-(idx : Int)) = j ∧ pat idx ≠ s then eh.slotVal j + 1 else eh.slotVal j := by
  have hs := CBuf.slot_lt (b := eh) hn (-(idx : Int))
  unfold corrPosition
  by_cases hp : pat idx = s
  · simp [hp]
  · have hb : (pat idx != s) = true := by simpa using hp
    rw [if_pos hb]
    have := CBuf.slotVal_set (b := eh) (v := eh.getS n (-(idx : Int)) + 1)
      (eh.slot n (-(idx : Int))) j (by omega)
    unfold bumpCount
    rw [this]
    by_cases hj : eh.slot n (-(idx : Int)) = j
    · simp [hj, hp, CBuf.getS]
    · simp [hj]

/-- The slots outside the ring of N are not touched. -/
theorem corrPush_slotVal_ge (hc : eh.cur < n) (hl : n ≤ eh.data.length) (pat : Nat → Bool)
    (s : Bool) {j : Nat} (hj : n ≤ j) : (corrPush n pat s eh).slotVal j = eh.slotVal j := by
  have hn : 0 < n := by omega
  have h : ∀ (l : List Nat) (b : CBuf Word), n ≤ b.data.length →
      (l.foldl (corrPosition n pat s) b).slotVal j = b.slotVal j := by
    intro l
    induction l with
    | nil => intros; rfl
    | cons i l ih =>
      intro b hb
      have hs := CBuf.slot_lt (b := b) hn (-(i : Int))
      rw [List.foldl_cons, ih _ (by simpa using hb), corrPosition_slotVal hn hb,
        if_neg (by rintro ⟨h1, -⟩; omega)]
  unfold corrPush
  rw [h _ _ (by simpa using hl)]
  have := CBuf.slotVal_set (b := eh) (v := (0 : Word)) eh.cur j (by omega)
  rw [if_neg (by omega)] at this
  exact this

/-- The counts after one symbol: the hypothesis that began i symbols ago has the count it had, 0 for
the new one, and 1 more where the symbol differs from the pattern's symbol i (48 R241). -/
theorem corrPush_getS (hc : eh.cur < n) (hl : n ≤ eh.data.length) (pat : Nat → Bool) (s : Bool)
    {i : Nat} (hi : i < n) :
    (corrPush n pat s eh).getS n (-(i : Int)) =
      (if i = 0 then 0 else eh.getS n (-((i - 1 : Nat) : Int))) +
      (if pat i ≠ s then 1 else 0) := by
  have hn : 0 < n := by omega
  have key : ∀ (l : List Nat) (b : CBuf Word), n ≤ b.data.length → l.Nodup → (∀ k ∈ l, k < n) →
      (l.foldl (corrPosition n pat s) b).getS n (-(i : Int)) =
        b.getS n (-(i : Int)) + (if i ∈ l ∧ pat i ≠ s then 1 else 0) := by
    intro l
    induction l with
    | nil => intros; simp
    | cons k l ih =>
      intro b hb hnd hlt
      rw [List.nodup_cons] at hnd
      rw [List.foldl_cons, ih _ (by simpa using hb) hnd.2 (fun m hm => hlt m (by simp [hm]))]
      have hslot : (corrPosition n pat s b k).slot n (-(i : Int)) = b.slot n (-(i : Int)) := by
        simp [CBuf.slot]
      unfold CBuf.getS
      rw [hslot, corrPosition_slotVal hn hb]
      by_cases hk : i = k
      · subst hk
        by_cases hp : pat i = s <;> simp [hp, hnd.1]
      · have hne : ¬ b.slot n (-(k : Int)) = b.slot n (-(i : Int)) := fun h =>
          hk (CBuf.slot_neg_inj hi (hlt k (by simp)) h.symm)
        simp [hne, hk]
  unfold corrPush
  rw [key _ _ (by simpa using hl) List.nodup_range (fun k hk => List.mem_range.mp hk)]
  congr 1
  · rcases i with _ | i
    · simpa using CBuf.getS_push_zero (v := (0 : Word)) hc hl
    · simpa using CBuf.getS_push_succ (v := (0 : Word)) hc hl hi
  · simp [hi]

end

@[simp] theorem Arch.corrReset_eh_length (a : Arch) :
    a.corrReset.1.eh.data.length = a.eh.data.length := by simp [Arch.corrReset]

/-- `corr_reset` writes NOLOCK to the N slots in use and leaves the others. -/
theorem Arch.corrReset_slotVal (a : Arch) {i : Nat} (hi : i < a.eh.data.length) :
    a.corrReset.1.eh.slotVal i = if i < a.syncN then a.nolock else a.eh.slotVal i := by
  simp [Arch.corrReset, CBuf.slotVal, List.getD_eq_getElem?_getD, hi]

/-! ## Packetizer (48 R245) -/

/-- Everything a packetizer step can do. -/
theorem Arch.pktStep_cases (a : Arch) (s : Bool) :
    (a.pstate = .scanning ∧ (a.corrStep s).2 = false ∧ a.pktStep s = ((a.corrStep s).1, false)) ∨
    (a.pstate = .scanning ∧ (a.corrStep s).2 = true ∧
      a.pktStep s = ({ (a.corrStep s).1.corrReset.1 with
        pstate := .capturing, capidx := 0, pktAvail := false }, false)) ∨
    (a.pstate = .capturing ∧ a.capidx + 1 ≠ a.pktL ∧
      a.pktStep s = ({ a with payload := setBit a.payload a.capidx s, capidx := a.capidx + 1 },
        false)) ∨
    (a.pstate = .capturing ∧ a.capidx + 1 = a.pktL ∧
      a.pktStep s = ({ a with
        payload := setBit a.payload a.capidx s, capidx := 0, pstate := .scanning, pktAvail := true,
        packetCount := a.packetCount + 1 }, true)) := by
  unfold Arch.pktStep
  cases hp : a.pstate with
  | scanning =>
    cases hc : (a.corrStep s).2 with
    | false => exact .inl ⟨rfl, rfl, by simp [Arch.pktScan, hc]⟩
    | true => exact .inr (.inl ⟨rfl, rfl, by simp [Arch.pktScan, hc]⟩)
  | capturing =>
    by_cases hl : a.capidx + 1 = a.pktL
    · refine .inr (.inr (.inr ⟨rfl, hl, ?_⟩))
      have : a.capidx + 1 = a.pktLen.toNat := hl
      simp [Arch.pktCapture, Arch.pktL, this]
    · refine .inr (.inr (.inl ⟨rfl, hl, ?_⟩))
      have : ¬ a.capidx + 1 = a.pktLen.toNat := hl
      simp [Arch.pktCapture, Arch.pktL, this, hp]

/-! ## Descrambler (49 R260, R263) -/

/-- The descrambler state after `k` steps. -/
def lfsrAfter (poly : Byte) : Nat → Byte → Byte
  | 0, l => l
  | k + 1, l => lfsrAfter poly k (lfsrShift poly l)

theorem descrambleFrom_lfsr (poly : Byte) : ∀ (n i : Nat) (l : Byte) (p : BitVec 8192),
    (descrambleFrom poly n i l p).1 = lfsrAfter poly n l
  | 0, _, _, _ => rfl
  | n + 1, i, l, p => by
    unfold descrambleFrom lfsrAfter
    exact descrambleFrom_lfsr poly n (i + 1) _ _

/-- The bits of the payload that a descramble changes, and to what. -/
theorem descrambleFrom_bit (poly : Byte) : ∀ (n i : Nat) (l : Byte) (p : BitVec 8192) (j : Nat),
    (descrambleFrom poly n i l p).2.getLsbD j =
      if i ≤ j ∧ j < i + n ∧ j < 8192 then p.getLsbD j ^^ lfsrOut (lfsrAfter poly (j - i) l)
      else p.getLsbD j
  | 0, i, l, p, j => by
    rw [if_neg (by omega)]; rfl
  | n + 1, i, l, p, j => by
    unfold descrambleFrom
    rw [descrambleFrom_bit poly n (i + 1)]
    by_cases hj : i = j
    · subst hj
      rw [if_neg (by omega), getLsbD_setBit]
      by_cases h8 : i < 8192
      · rw [if_pos ⟨rfl, h8⟩, if_pos ⟨le_rfl, by omega, h8⟩, Nat.sub_self]; rfl
      · rw [if_neg (by omega), if_neg (by omega)]
    · by_cases h : i + 1 ≤ j ∧ j < i + 1 + n ∧ j < 8192
      · rw [if_pos h, if_pos (by omega), getLsbD_setBit, if_neg (by omega),
          show j - i = (j - (i + 1)) + 1 by omega]
        rfl
      · rw [if_neg h, if_neg (by omega), getLsbD_setBit, if_neg (by omega)]

end Sys2Proof.Machine
end

