-- ==== Sys2Proof/Laws/Chain.lean ====
section
/-! SUPPORT. What the composed steps leave: the synchronizer step, the packetizer step and the chain after an
emitted symbol, field by field. -/

namespace Sys2Proof.Machine

/-- The correcting part of a synchronizer step writes IH, PHASE, INTEG and GATE only (47 R220). -/
theorem Arch.syncCorrect_frame (a : Arch) (v : Word) :
    (a.syncCorrect v).1 = { a with
      ih := (a.syncCorrect v).1.ih, phase := (a.syncCorrect v).1.phase
      integ := (a.syncCorrect v).1.integ, gate := (a.syncCorrect v).1.gate } := by
  have h1 : ∀ w : Word, (syncFiltered a w).1 =
      { a with ih := (syncFiltered a w).1.ih, integ := (syncFiltered a w).1.integ } := fun _ => rfl
  rcases Arch.syncCorrect_cases a v with ⟨w, hw, h⟩ | ⟨hw, h⟩
  · rw [h]
    rcases Arch.advanceBy_cases (syncFiltered a v).1 (syncFiltered a v).2 with ⟨_, e⟩ | ⟨_, e⟩ <;>
      rw [e] <;> rfl
  · rw [h]
    rcases Arch.advanceBy_cases (syncFiltered a v).1 (syncFiltered a v).2 with ⟨_, e⟩ | ⟨_, e⟩ <;>
      rw [e] <;> rfl

/-- A synchronizer step writes RAW, IH, PHASE, INTEG and GATE only (47 R220). -/
theorem Arch.ssStep_frame (a : Arch) (x : Cplx) :
    (a.ssStep x).1 = { a with
      raw := (a.ssStep x).1.raw, ih := (a.ssStep x).1.ih, phase := (a.ssStep x).1.phase
      integ := (a.ssStep x).1.integ, gate := (a.ssStep x).1.gate } := by
  have ht : (a.pushRaw x).tick.1 =
      { a with raw := a.raw.push Config.rawDepth x, phase := (a.pushRaw x).tick.1.phase } := by
    unfold Arch.tick
    rcases Arch.advanceBy_cases (a.pushRaw x) (a.pushRaw x).rate with ⟨_, e⟩ | ⟨_, e⟩ <;>
      rw [e] <;> rfl
  cases hv : (a.pushRaw x).tick.2 with
  | none => rw [Arch.ssStep_none hv, ht]
  | some v => rw [Arch.ssStep_some hv, Arch.syncCorrect_frame, ht]

/-- A synchronizer step pushes the sample (47 R220 step 1). -/
theorem Arch.ssStep_raw (a : Arch) (x : Cplx) :
    (a.ssStep x).1.raw = a.raw.push Config.rawDepth x := by
  cases hv : (a.pushRaw x).tick.2 with
  | none => rw [Arch.ssStep_none hv]; simp [Arch.tick_eq]
  | some v => rw [Arch.ssStep_some hv, Arch.syncCorrect_frame]; simp [Arch.tick_eq]

/-- A packetizer step writes EH, PSTATE, CAPIDX, PAYLOAD, PKT_AVAIL and PACKET_COUNT only (48 R245). -/
theorem Arch.pktStep_frame (a : Arch) (s : Bool) :
    (a.pktStep s).1 = { a with
      eh := (a.pktStep s).1.eh, pstate := (a.pktStep s).1.pstate
      capidx := (a.pktStep s).1.capidx, payload := (a.pktStep s).1.payload
      pktAvail := (a.pktStep s).1.pktAvail, packetCount := (a.pktStep s).1.packetCount } := by
  rcases Arch.pktStep_cases a s with ⟨_, _, e⟩ | ⟨_, _, e⟩ | ⟨_, _, e⟩ | ⟨_, _, e⟩ <;> rw [e] <;> rfl

/-- The chain after an emitted symbol: a packetizer step, and where it emits a packet the descrambler and
the latch of the sample's index (49 R272). -/
theorem Arch.chainStep_cases (a : Arch) (sample : BitVec 64) (bit : Bool) :
    ((a.pktStep bit).2 = false ∧ a.chainStep sample bit = ((a.pktStep bit).1, false)) ∨
    ((a.pktStep bit).2 = true ∧
      a.chainStep sample bit =
        ({ (a.pktStep bit).1.descramble with pktSampleIndex := sample }, true)) := by
  unfold Arch.chainStep
  cases h : (a.pktStep bit).2
  · exact .inl ⟨rfl, by simp [h]⟩
  · exact .inr ⟨rfl, by simp [h, Arch.deliverPacket]⟩

/-- The chain writes what a packetizer step writes, LFSR and PKT_SAMPLE_INDEX only. -/
theorem Arch.chainStep_frame (a : Arch) (sample : BitVec 64) (bit : Bool) :
    (a.chainStep sample bit).1 = { a with
      eh := (a.chainStep sample bit).1.eh, pstate := (a.chainStep sample bit).1.pstate
      capidx := (a.chainStep sample bit).1.capidx, payload := (a.chainStep sample bit).1.payload
      pktAvail := (a.chainStep sample bit).1.pktAvail, lfsr := (a.chainStep sample bit).1.lfsr
      packetCount := (a.chainStep sample bit).1.packetCount
      pktSampleIndex := (a.chainStep sample bit).1.pktSampleIndex } := by
  rcases Arch.chainStep_cases a sample bit with ⟨_, e⟩ | ⟨_, e⟩
  · rw [e]; simp only []; rw [Arch.pktStep_frame]
  · rw [e]; simp only [Arch.descramble]; rw [Arch.pktStep_frame]

/-! ## Field by field -/

@[simp] theorem Arch.ssStep_lifecycle (a : Arch) (x : Cplx) : (a.ssStep x).1.lifecycle = a.lifecycle := by
  have h := congrArg Arch.lifecycle (a.ssStep_frame x); exact h
@[simp] theorem Arch.ssStep_faultCause (a : Arch) (x : Cplx) : (a.ssStep x).1.faultCause = a.faultCause := by
  have h := congrArg Arch.faultCause (a.ssStep_frame x); exact h
@[simp] theorem Arch.ssStep_sps (a : Arch) (x : Cplx) : (a.ssStep x).1.sps = a.sps := by
  have h := congrArg Arch.sps (a.ssStep_frame x); exact h
@[simp] theorem Arch.ssStep_loopBw (a : Arch) (x : Cplx) : (a.ssStep x).1.loopBw = a.loopBw := by
  have h := congrArg Arch.loopBw (a.ssStep_frame x); exact h
@[simp] theorem Arch.ssStep_loopDamp (a : Arch) (x : Cplx) : (a.ssStep x).1.loopDamp = a.loopDamp := by
  have h := congrArg Arch.loopDamp (a.ssStep_frame x); exact h
@[simp] theorem Arch.ssStep_agcAlpha (a : Arch) (x : Cplx) : (a.ssStep x).1.agcAlpha = a.agcAlpha := by
  have h := congrArg Arch.agcAlpha (a.ssStep_frame x); exact h
@[simp] theorem Arch.ssStep_syncLen (a : Arch) (x : Cplx) : (a.ssStep x).1.syncLen = a.syncLen := by
  have h := congrArg Arch.syncLen (a.ssStep_frame x); exact h
@[simp] theorem Arch.ssStep_syncPatLo (a : Arch) (x : Cplx) : (a.ssStep x).1.syncPatLo = a.syncPatLo := by
  have h := congrArg Arch.syncPatLo (a.ssStep_frame x); exact h
@[simp] theorem Arch.ssStep_syncPatHi (a : Arch) (x : Cplx) : (a.ssStep x).1.syncPatHi = a.syncPatHi := by
  have h := congrArg Arch.syncPatHi (a.ssStep_frame x); exact h
@[simp] theorem Arch.ssStep_threshold (a : Arch) (x : Cplx) : (a.ssStep x).1.threshold = a.threshold := by
  have h := congrArg Arch.threshold (a.ssStep_frame x); exact h
@[simp] theorem Arch.ssStep_pktLen (a : Arch) (x : Cplx) : (a.ssStep x).1.pktLen = a.pktLen := by
  have h := congrArg Arch.pktLen (a.ssStep_frame x); exact h
@[simp] theorem Arch.ssStep_lfsrPoly (a : Arch) (x : Cplx) : (a.ssStep x).1.lfsrPoly = a.lfsrPoly := by
  have h := congrArg Arch.lfsrPoly (a.ssStep_frame x); exact h
@[simp] theorem Arch.ssStep_lfsrSeed (a : Arch) (x : Cplx) : (a.ssStep x).1.lfsrSeed = a.lfsrSeed := by
  have h := congrArg Arch.lfsrSeed (a.ssStep_frame x); exact h
@[simp] theorem Arch.ssStep_rate (a : Arch) (x : Cplx) : (a.ssStep x).1.rate = a.rate := by
  have h := congrArg Arch.rate (a.ssStep_frame x); exact h
@[simp] theorem Arch.ssStep_kp (a : Arch) (x : Cplx) : (a.ssStep x).1.kp = a.kp := by
  have h := congrArg Arch.kp (a.ssStep_frame x); exact h
@[simp] theorem Arch.ssStep_ki (a : Arch) (x : Cplx) : (a.ssStep x).1.ki = a.ki := by
  have h := congrArg Arch.ki (a.ssStep_frame x); exact h
@[simp] theorem Arch.ssStep_agcOma (a : Arch) (x : Cplx) : (a.ssStep x).1.agcOma = a.agcOma := by
  have h := congrArg Arch.agcOma (a.ssStep_frame x); exact h
@[simp] theorem Arch.ssStep_nolock (a : Arch) (x : Cplx) : (a.ssStep x).1.nolock = a.nolock := by
  have h := congrArg Arch.nolock (a.ssStep_frame x); exact h
@[simp] theorem Arch.ssStep_eh (a : Arch) (x : Cplx) : (a.ssStep x).1.eh = a.eh := by
  have h := congrArg Arch.eh (a.ssStep_frame x); exact h
@[simp] theorem Arch.ssStep_agcP (a : Arch) (x : Cplx) : (a.ssStep x).1.agcP = a.agcP := by
  have h := congrArg Arch.agcP (a.ssStep_frame x); exact h
@[simp] theorem Arch.ssStep_pstate (a : Arch) (x : Cplx) : (a.ssStep x).1.pstate = a.pstate := by
  have h := congrArg Arch.pstate (a.ssStep_frame x); exact h
@[simp] theorem Arch.ssStep_capidx (a : Arch) (x : Cplx) : (a.ssStep x).1.capidx = a.capidx := by
  have h := congrArg Arch.capidx (a.ssStep_frame x); exact h
@[simp] theorem Arch.ssStep_payload (a : Arch) (x : Cplx) : (a.ssStep x).1.payload = a.payload := by
  have h := congrArg Arch.payload (a.ssStep_frame x); exact h
@[simp] theorem Arch.ssStep_pktAvail (a : Arch) (x : Cplx) : (a.ssStep x).1.pktAvail = a.pktAvail := by
  have h := congrArg Arch.pktAvail (a.ssStep_frame x); exact h
@[simp] theorem Arch.ssStep_lfsr (a : Arch) (x : Cplx) : (a.ssStep x).1.lfsr = a.lfsr := by
  have h := congrArg Arch.lfsr (a.ssStep_frame x); exact h
@[simp] theorem Arch.ssStep_sampleCount (a : Arch) (x : Cplx) : (a.ssStep x).1.sampleCount = a.sampleCount := by
  have h := congrArg Arch.sampleCount (a.ssStep_frame x); exact h
@[simp] theorem Arch.ssStep_packetCount (a : Arch) (x : Cplx) : (a.ssStep x).1.packetCount = a.packetCount := by
  have h := congrArg Arch.packetCount (a.ssStep_frame x); exact h
@[simp] theorem Arch.ssStep_pktSampleIndex (a : Arch) (x : Cplx) : (a.ssStep x).1.pktSampleIndex = a.pktSampleIndex := by
  have h := congrArg Arch.pktSampleIndex (a.ssStep_frame x); exact h

@[simp] theorem Arch.pktStep_lifecycle (a : Arch) (s : Bool) : (a.pktStep s).1.lifecycle = a.lifecycle := by
  have h := congrArg Arch.lifecycle (a.pktStep_frame s); exact h
@[simp] theorem Arch.pktStep_faultCause (a : Arch) (s : Bool) : (a.pktStep s).1.faultCause = a.faultCause := by
  have h := congrArg Arch.faultCause (a.pktStep_frame s); exact h
@[simp] theorem Arch.pktStep_sps (a : Arch) (s : Bool) : (a.pktStep s).1.sps = a.sps := by
  have h := congrArg Arch.sps (a.pktStep_frame s); exact h
@[simp] theorem Arch.pktStep_loopBw (a : Arch) (s : Bool) : (a.pktStep s).1.loopBw = a.loopBw := by
  have h := congrArg Arch.loopBw (a.pktStep_frame s); exact h
@[simp] theorem Arch.pktStep_loopDamp (a : Arch) (s : Bool) : (a.pktStep s).1.loopDamp = a.loopDamp := by
  have h := congrArg Arch.loopDamp (a.pktStep_frame s); exact h
@[simp] theorem Arch.pktStep_agcAlpha (a : Arch) (s : Bool) : (a.pktStep s).1.agcAlpha = a.agcAlpha := by
  have h := congrArg Arch.agcAlpha (a.pktStep_frame s); exact h
@[simp] theorem Arch.pktStep_syncLen (a : Arch) (s : Bool) : (a.pktStep s).1.syncLen = a.syncLen := by
  have h := congrArg Arch.syncLen (a.pktStep_frame s); exact h
@[simp] theorem Arch.pktStep_syncPatLo (a : Arch) (s : Bool) : (a.pktStep s).1.syncPatLo = a.syncPatLo := by
  have h := congrArg Arch.syncPatLo (a.pktStep_frame s); exact h
@[simp] theorem Arch.pktStep_syncPatHi (a : Arch) (s : Bool) : (a.pktStep s).1.syncPatHi = a.syncPatHi := by
  have h := congrArg Arch.syncPatHi (a.pktStep_frame s); exact h
@[simp] theorem Arch.pktStep_threshold (a : Arch) (s : Bool) : (a.pktStep s).1.threshold = a.threshold := by
  have h := congrArg Arch.threshold (a.pktStep_frame s); exact h
@[simp] theorem Arch.pktStep_pktLen (a : Arch) (s : Bool) : (a.pktStep s).1.pktLen = a.pktLen := by
  have h := congrArg Arch.pktLen (a.pktStep_frame s); exact h
@[simp] theorem Arch.pktStep_lfsrPoly (a : Arch) (s : Bool) : (a.pktStep s).1.lfsrPoly = a.lfsrPoly := by
  have h := congrArg Arch.lfsrPoly (a.pktStep_frame s); exact h
@[simp] theorem Arch.pktStep_lfsrSeed (a : Arch) (s : Bool) : (a.pktStep s).1.lfsrSeed = a.lfsrSeed := by
  have h := congrArg Arch.lfsrSeed (a.pktStep_frame s); exact h
@[simp] theorem Arch.pktStep_rate (a : Arch) (s : Bool) : (a.pktStep s).1.rate = a.rate := by
  have h := congrArg Arch.rate (a.pktStep_frame s); exact h
@[simp] theorem Arch.pktStep_kp (a : Arch) (s : Bool) : (a.pktStep s).1.kp = a.kp := by
  have h := congrArg Arch.kp (a.pktStep_frame s); exact h
@[simp] theorem Arch.pktStep_ki (a : Arch) (s : Bool) : (a.pktStep s).1.ki = a.ki := by
  have h := congrArg Arch.ki (a.pktStep_frame s); exact h
@[simp] theorem Arch.pktStep_agcOma (a : Arch) (s : Bool) : (a.pktStep s).1.agcOma = a.agcOma := by
  have h := congrArg Arch.agcOma (a.pktStep_frame s); exact h
@[simp] theorem Arch.pktStep_nolock (a : Arch) (s : Bool) : (a.pktStep s).1.nolock = a.nolock := by
  have h := congrArg Arch.nolock (a.pktStep_frame s); exact h
@[simp] theorem Arch.pktStep_raw (a : Arch) (s : Bool) : (a.pktStep s).1.raw = a.raw := by
  have h := congrArg Arch.raw (a.pktStep_frame s); exact h
@[simp] theorem Arch.pktStep_ih (a : Arch) (s : Bool) : (a.pktStep s).1.ih = a.ih := by
  have h := congrArg Arch.ih (a.pktStep_frame s); exact h
@[simp] theorem Arch.pktStep_phase (a : Arch) (s : Bool) : (a.pktStep s).1.phase = a.phase := by
  have h := congrArg Arch.phase (a.pktStep_frame s); exact h
@[simp] theorem Arch.pktStep_integ (a : Arch) (s : Bool) : (a.pktStep s).1.integ = a.integ := by
  have h := congrArg Arch.integ (a.pktStep_frame s); exact h
@[simp] theorem Arch.pktStep_agcP (a : Arch) (s : Bool) : (a.pktStep s).1.agcP = a.agcP := by
  have h := congrArg Arch.agcP (a.pktStep_frame s); exact h
@[simp] theorem Arch.pktStep_gate (a : Arch) (s : Bool) : (a.pktStep s).1.gate = a.gate := by
  have h := congrArg Arch.gate (a.pktStep_frame s); exact h
@[simp] theorem Arch.pktStep_lfsr (a : Arch) (s : Bool) : (a.pktStep s).1.lfsr = a.lfsr := by
  have h := congrArg Arch.lfsr (a.pktStep_frame s); exact h
@[simp] theorem Arch.pktStep_sampleCount (a : Arch) (s : Bool) : (a.pktStep s).1.sampleCount = a.sampleCount := by
  have h := congrArg Arch.sampleCount (a.pktStep_frame s); exact h
@[simp] theorem Arch.pktStep_pktSampleIndex (a : Arch) (s : Bool) : (a.pktStep s).1.pktSampleIndex = a.pktSampleIndex := by
  have h := congrArg Arch.pktSampleIndex (a.pktStep_frame s); exact h

@[simp] theorem Arch.chainStep_lifecycle (a : Arch) (n : BitVec 64) (s : Bool) : (a.chainStep n s).1.lifecycle = a.lifecycle := by
  have h := congrArg Arch.lifecycle (a.chainStep_frame n s); exact h
@[simp] theorem Arch.chainStep_faultCause (a : Arch) (n : BitVec 64) (s : Bool) : (a.chainStep n s).1.faultCause = a.faultCause := by
  have h := congrArg Arch.faultCause (a.chainStep_frame n s); exact h
@[simp] theorem Arch.chainStep_sps (a : Arch) (n : BitVec 64) (s : Bool) : (a.chainStep n s).1.sps = a.sps := by
  have h := congrArg Arch.sps (a.chainStep_frame n s); exact h
@[simp] theorem Arch.chainStep_loopBw (a : Arch) (n : BitVec 64) (s : Bool) : (a.chainStep n s).1.loopBw = a.loopBw := by
  have h := congrArg Arch.loopBw (a.chainStep_frame n s); exact h
@[simp] theorem Arch.chainStep_loopDamp (a : Arch) (n : BitVec 64) (s : Bool) : (a.chainStep n s).1.loopDamp = a.loopDamp := by
  have h := congrArg Arch.loopDamp (a.chainStep_frame n s); exact h
@[simp] theorem Arch.chainStep_agcAlpha (a : Arch) (n : BitVec 64) (s : Bool) : (a.chainStep n s).1.agcAlpha = a.agcAlpha := by
  have h := congrArg Arch.agcAlpha (a.chainStep_frame n s); exact h
@[simp] theorem Arch.chainStep_syncLen (a : Arch) (n : BitVec 64) (s : Bool) : (a.chainStep n s).1.syncLen = a.syncLen := by
  have h := congrArg Arch.syncLen (a.chainStep_frame n s); exact h
@[simp] theorem Arch.chainStep_syncPatLo (a : Arch) (n : BitVec 64) (s : Bool) : (a.chainStep n s).1.syncPatLo = a.syncPatLo := by
  have h := congrArg Arch.syncPatLo (a.chainStep_frame n s); exact h
@[simp] theorem Arch.chainStep_syncPatHi (a : Arch) (n : BitVec 64) (s : Bool) : (a.chainStep n s).1.syncPatHi = a.syncPatHi := by
  have h := congrArg Arch.syncPatHi (a.chainStep_frame n s); exact h
@[simp] theorem Arch.chainStep_threshold (a : Arch) (n : BitVec 64) (s : Bool) : (a.chainStep n s).1.threshold = a.threshold := by
  have h := congrArg Arch.threshold (a.chainStep_frame n s); exact h
@[simp] theorem Arch.chainStep_pktLen (a : Arch) (n : BitVec 64) (s : Bool) : (a.chainStep n s).1.pktLen = a.pktLen := by
  have h := congrArg Arch.pktLen (a.chainStep_frame n s); exact h
@[simp] theorem Arch.chainStep_lfsrPoly (a : Arch) (n : BitVec 64) (s : Bool) : (a.chainStep n s).1.lfsrPoly = a.lfsrPoly := by
  have h := congrArg Arch.lfsrPoly (a.chainStep_frame n s); exact h
@[simp] theorem Arch.chainStep_lfsrSeed (a : Arch) (n : BitVec 64) (s : Bool) : (a.chainStep n s).1.lfsrSeed = a.lfsrSeed := by
  have h := congrArg Arch.lfsrSeed (a.chainStep_frame n s); exact h
@[simp] theorem Arch.chainStep_rate (a : Arch) (n : BitVec 64) (s : Bool) : (a.chainStep n s).1.rate = a.rate := by
  have h := congrArg Arch.rate (a.chainStep_frame n s); exact h
@[simp] theorem Arch.chainStep_kp (a : Arch) (n : BitVec 64) (s : Bool) : (a.chainStep n s).1.kp = a.kp := by
  have h := congrArg Arch.kp (a.chainStep_frame n s); exact h
@[simp] theorem Arch.chainStep_ki (a : Arch) (n : BitVec 64) (s : Bool) : (a.chainStep n s).1.ki = a.ki := by
  have h := congrArg Arch.ki (a.chainStep_frame n s); exact h
@[simp] theorem Arch.chainStep_agcOma (a : Arch) (n : BitVec 64) (s : Bool) : (a.chainStep n s).1.agcOma = a.agcOma := by
  have h := congrArg Arch.agcOma (a.chainStep_frame n s); exact h
@[simp] theorem Arch.chainStep_nolock (a : Arch) (n : BitVec 64) (s : Bool) : (a.chainStep n s).1.nolock = a.nolock := by
  have h := congrArg Arch.nolock (a.chainStep_frame n s); exact h
@[simp] theorem Arch.chainStep_raw (a : Arch) (n : BitVec 64) (s : Bool) : (a.chainStep n s).1.raw = a.raw := by
  have h := congrArg Arch.raw (a.chainStep_frame n s); exact h
@[simp] theorem Arch.chainStep_ih (a : Arch) (n : BitVec 64) (s : Bool) : (a.chainStep n s).1.ih = a.ih := by
  have h := congrArg Arch.ih (a.chainStep_frame n s); exact h
@[simp] theorem Arch.chainStep_phase (a : Arch) (n : BitVec 64) (s : Bool) : (a.chainStep n s).1.phase = a.phase := by
  have h := congrArg Arch.phase (a.chainStep_frame n s); exact h
@[simp] theorem Arch.chainStep_integ (a : Arch) (n : BitVec 64) (s : Bool) : (a.chainStep n s).1.integ = a.integ := by
  have h := congrArg Arch.integ (a.chainStep_frame n s); exact h
@[simp] theorem Arch.chainStep_agcP (a : Arch) (n : BitVec 64) (s : Bool) : (a.chainStep n s).1.agcP = a.agcP := by
  have h := congrArg Arch.agcP (a.chainStep_frame n s); exact h
@[simp] theorem Arch.chainStep_gate (a : Arch) (n : BitVec 64) (s : Bool) : (a.chainStep n s).1.gate = a.gate := by
  have h := congrArg Arch.gate (a.chainStep_frame n s); exact h
@[simp] theorem Arch.chainStep_sampleCount (a : Arch) (n : BitVec 64) (s : Bool) : (a.chainStep n s).1.sampleCount = a.sampleCount := by
  have h := congrArg Arch.sampleCount (a.chainStep_frame n s); exact h

@[simp] theorem Arch.pktStep_syncN (a : Arch) (s : Bool) : (a.pktStep s).1.syncN = a.syncN := by
  simp [Arch.syncN]
@[simp] theorem Arch.pktStep_pktL (a : Arch) (s : Bool) : (a.pktStep s).1.pktL = a.pktL := by
  simp [Arch.pktL]
@[simp] theorem Arch.ssStep_syncN (a : Arch) (x : Cplx) : (a.ssStep x).1.syncN = a.syncN := by
  simp [Arch.syncN]
@[simp] theorem Arch.ssStep_pktL (a : Arch) (x : Cplx) : (a.ssStep x).1.pktL = a.pktL := by
  simp [Arch.pktL]
@[simp] theorem Arch.chainStep_syncN (a : Arch) (n : BitVec 64) (s : Bool) :
    (a.chainStep n s).1.syncN = a.syncN := by simp [Arch.syncN]
@[simp] theorem Arch.chainStep_pktL (a : Arch) (n : BitVec 64) (s : Bool) :
    (a.chainStep n s).1.pktL = a.pktL := by simp [Arch.pktL]

end Sys2Proof.Machine
end

