-- ==== Sys2Proof/Laws/Decode.lean ====
section
/-! SUPPORT. The header's fields, the opcode map and the framing of `decode`, said once. -/

namespace Sys2Proof

/-! ## Fields of a header that `mkHeader` made -/

section
variable (imm : BitVec 16) (len : BitVec 2) (sel : BitVec 4) (opc : BitVec 8)

/-- Which field each bit of a header belongs to (30 R80). -/
theorem getLsbD_mkHeader (i : Nat) : (mkHeader imm len sel opc).getLsbD i =
    if i < 8 then opc.getLsbD i else if i < 12 then sel.getLsbD (i - 8)
    else if i < 14 then len.getLsbD (i - 12) else if i < 16 then false
    else imm.getLsbD (i - 16) := by
  change BitVec.getLsbD (w := 16 + (2 + (2 + (4 + 8)))) (imm ++ (0#2 ++ (len ++ (sel ++ opc)))) i = _
  simp only [BitVec.getLsbD_append, BitVec.getLsbD_zero]
  by_cases h1 : i < 8
  · simp [h1, show i < 16 by omega, show i < 14 by omega, show i < 12 by omega]
  by_cases h2 : i < 12
  · simp [h1, h2, show i < 16 by omega, show i < 14 by omega]
  by_cases h3 : i < 14
  · simp [h1, h2, h3, show i < 16 by omega]
  by_cases h4 : i < 16
  · simp [h1, h2, h3, h4]
  · simp [h1, h2, h3, h4]

@[simp] theorem hdrOpc_mkHeader : hdrOpc (mkHeader imm len sel opc) = opc := by
  apply BitVec.eq_of_getLsbD_eq
  intro i hi
  simp [hdrOpc, getLsbD_mkHeader, hi]

@[simp] theorem hdrSel_mkHeader : hdrSel (mkHeader imm len sel opc) = sel := by
  apply BitVec.eq_of_getLsbD_eq
  intro i hi
  simp [hdrSel, getLsbD_mkHeader, hi, show 8 + i < 12 by omega]

@[simp] theorem hdrLen_mkHeader : hdrLen (mkHeader imm len sel opc) = len.toNat := by
  unfold hdrLen
  congr 1
  apply BitVec.eq_of_getLsbD_eq
  intro i hi
  simp [getLsbD_mkHeader, hi, show ¬ 12 + i < 8 by omega,
    show 12 + i < 14 by omega]

@[simp] theorem hdrRsv_mkHeader : hdrRsv (mkHeader imm len sel opc) = 0#2 := by
  apply BitVec.eq_of_getLsbD_eq
  intro i hi
  simp [hdrRsv, getLsbD_mkHeader, hi, show ¬ 14 + i < 8 by omega,
    show ¬ 14 + i < 12 by omega, show 14 + i < 16 by omega]

@[simp] theorem hdrImm_mkHeader : hdrImm (mkHeader imm len sel opc) = imm := by
  apply BitVec.eq_of_getLsbD_eq
  intro i hi
  simp [hdrImm, getLsbD_mkHeader, hi, show ¬ 16 + i < 8 by omega,
    show ¬ 16 + i < 12 by omega, show ¬ 16 + i < 14 by omega]

end

/-- LEN is at most 3 (30 R80). -/
theorem hdrLen_lt (h : Word) : hdrLen h < 4 := (h.extractLsb' 12 2).isLt

/-- A header with RSV = 0 is made of its other fields. -/
theorem mkHeader_eta (h : Word) (hr : hdrRsv h = 0#2) :
    mkHeader (hdrImm h) (h.extractLsb' 12 2) (hdrSel h) (hdrOpc h) = h := by
  apply BitVec.eq_of_getLsbD_eq
  intro i hi
  rw [getLsbD_mkHeader]
  simp only [hdrImm, hdrSel, hdrOpc, BitVec.getLsbD_extractLsb']
  by_cases h1 : i < 8
  · simp [h1]
  by_cases h2 : i < 12
  · simp [h1, h2, show i - 8 < 4 by omega, show 8 + (i - 8) = i by omega]
  by_cases h3 : i < 14
  · simp [h1, h2, h3, show i - 12 < 2 by omega, show 12 + (i - 12) = i by omega]
  by_cases h4 : i < 16
  · have := congrArg (fun v : BitVec 2 => v.getLsbD (i - 14)) hr
    simp only [hdrRsv, BitVec.getLsbD_extractLsb', BitVec.getLsbD_zero] at this
    rw [show 14 + (i - 14) = i by omega] at this
    simpa [h1, h2, h3, h4, show i - 14 < 2 by omega] using this.symm
  · simp [h1, h2, h3, h4, show i - 16 < 16 by omega, show 16 + (i - 16) = i by omega]

/-! ## The opcode map -/

/-- Each operation is found by its own OPC value (30 R88). -/
@[simp] theorem opcodeOf_byte (o : Opcode) : opcodeOf o.byte = some o := by cases o <;> rfl

/-- The operation an OPC value names has that value. -/
theorem byte_of_opcodeOf {b : BitVec 8} {o : Opcode} (h : opcodeOf b = some o) : o.byte = b := by
  have := List.find?_some h
  simpa using this

theorem ndata_lt (o : Opcode) : o.ndata < 4 := by cases o <;> decide

@[simp] theorem dataWords_length (i : Instr) : i.dataWords.length = i.opcode.ndata := by
  cases i <;> rfl

@[simp] theorem encode_length (i : Instr) : (encode i).length = 1 + i.opcode.ndata := by
  simp [encode, Nat.add_comm]

/-! ## Framing -/

@[simp] theorem decode_nil : decode [] = .error .noHeader := rfl

/-- Fewer than LEN data words: the command is not complete (30 R83). -/
theorem decode_truncated {h : Word} {ws : List Word} (hl : ws.length < hdrLen h) :
    decode (h :: ws) = .error .truncated := by simp [decode, hl]

/-- An OPC outside the table is rejected as illegal, whatever else the header holds (60 R281). -/
theorem decode_illegal {h : Word} {ws : List Word} (hl : hdrLen h ≤ ws.length)
    (ho : opcodeOf (hdrOpc h) = none) : decode (h :: ws) = .error .illegalOpcode := by
  simp [decode, ho, Nat.not_lt.mpr hl]

/-- A violated reserved field is rejected (30 R91). -/
theorem decode_reserved {h : Word} {ws : List Word} {o : Opcode} (hl : hdrLen h ≤ ws.length)
    (ho : opcodeOf (hdrOpc h) = some o) (hf : fieldsOk o h = false) :
    decode (h :: ws) = .error .reservedField := by
  simp [decode, ho, hf, Nat.not_lt.mpr hl]

/-- An accepted header gives the operation's command and the words after its data words. -/
theorem decode_accepted {h : Word} {ws : List Word} {o : Opcode} (hl : hdrLen h ≤ ws.length)
    (ho : opcodeOf (hdrOpc h) = some o) (hf : fieldsOk o h = true) :
    decode (h :: ws)
      = .ok (buildInstr o h (dataWord ws 0) (dataWord ws 1), ws.drop (hdrLen h)) := by
  simp [decode, ho, hf, Nat.not_lt.mpr hl]

/-- Everything `decode` can answer to a header and the words after it. -/
theorem decode_cases (h : Word) (ws : List Word) :
    (ws.length < hdrLen h ∧ decode (h :: ws) = .error .truncated) ∨
    (hdrLen h ≤ ws.length ∧ opcodeOf (hdrOpc h) = none ∧
      decode (h :: ws) = .error .illegalOpcode) ∨
    (∃ o, hdrLen h ≤ ws.length ∧ opcodeOf (hdrOpc h) = some o ∧ fieldsOk o h = false ∧
      decode (h :: ws) = .error .reservedField) ∨
    (∃ o, hdrLen h ≤ ws.length ∧ opcodeOf (hdrOpc h) = some o ∧ fieldsOk o h = true ∧
      decode (h :: ws)
        = .ok (buildInstr o h (dataWord ws 0) (dataWord ws 1), ws.drop (hdrLen h))) := by
  rcases Nat.lt_or_ge ws.length (hdrLen h) with hl | hl
  · exact .inl ⟨hl, decode_truncated hl⟩
  cases ho : opcodeOf (hdrOpc h) with
  | none => exact .inr (.inl ⟨hl, rfl, decode_illegal hl ho⟩)
  | some o =>
    cases hf : fieldsOk o h with
    | false => exact .inr (.inr (.inl ⟨o, hl, rfl, hf, decode_reserved hl ho hf⟩))
    | true => exact .inr (.inr (.inr ⟨o, hl, rfl, hf, decode_accepted hl ho hf⟩))

end Sys2Proof
end

