-- ==== Sys2Proof/Laws/Invariant.lean ====
section
/-! SUPPORT. The invariant's small lemmas: the ranges START checks, what an update that leaves the
configuration has to show, the state START leaves, and the trap entry. -/

namespace Sys2Proof.Safety

open Sys2Proof.Machine

/-- The ranges of a legal configuration (10 R28, R30, R31). -/
theorem startLegal_bounds {a : Arch} (h : startLegal a = true) :
    1 ≤ a.syncN ∧ a.syncN ≤ 64 ∧ a.threshold.toNat ≤ 65535 ∧
    1 ≤ a.pktL ∧ a.pktL ≤ 8192 := by
  unfold startLegal configLegal at h
  simp only [Bool.and_eq_true, decide_eq_true_eq] at h
  obtain ⟨⟨⟨⟨⟨⟨⟨_, h1⟩, h2⟩, h3⟩, h4⟩, h5⟩, _⟩, _⟩ := h
  exact ⟨h1, h2, h3, h4, h5⟩

/-- Outside CONFIG, an update that leaves STATE, FAULT_CAUSE, the configuration and the derived constants
keeps the invariant if it keeps the buffers, the correlator and the packetizer in their ranges. -/
theorem ArchInv.of_frame {a b : Arch} (h : ArchInv a) (hl : a.lifecycle ≠ .config)
    (e1 : b.lifecycle = a.lifecycle) (e2 : b.faultCause = a.faultCause)
    (e3 : [b.sps, b.loopBw, b.loopDamp, b.agcAlpha, b.syncLen, b.threshold, b.pktLen,
        b.rate, b.kp, b.ki, b.agcOma, b.nolock]
      = [a.sps, a.loopBw, a.loopDamp, a.agcAlpha, a.syncLen, a.threshold, a.pktLen,
        a.rate, a.kp, a.ki, a.agcOma, a.nolock])
    (hb : BuffersSized b) (hc : CorrelatorOk b) (hp : PacketizerOk b) : ArchInv b := by
  obtain ⟨h1, h2, h3, h4, h5, h6, h7⟩ := h
  simp only [List.cons.injEq, and_true] at e3
  obtain ⟨s1, s2, s3, s4, s5, s6, s7, d1, d2, d3, d4, d5⟩ := e3
  refine ⟨hb, ?_, ?_, ?_, ?_, hc, hp⟩
  · unfold FaultCauseTold; rw [e2, e1]; exact h2
  · intro _
    have := h3 hl
    unfold startLegal configLegal Arch.designedGains at *
    rw [s1, s2, s3, s4, s5, s6, s7]; exact this
  · intro _
    have := h4 hl
    unfold Arch.deriveConstants at *
    have g : b.designedGains = a.designedGains := by unfold Arch.designedGains; rw [s1, s2, s3]
    rw [g, s1, s4, s6]
    have k1 := congrArg Arch.rate this
    have k2 := congrArg Arch.kp this
    have k3 := congrArg Arch.ki this
    have k4 := congrArg Arch.agcOma this
    have k5 := congrArg Arch.nolock this
    simp only at k1 k2 k3 k4 k5
    rw [k1, k2, k3, k4, k5, ← d1, ← d2, ← d3, ← d4, ← d5, ← s1, ← s4, ← s6]
  · intro h; exact absurd (e1.symm.trans h) hl

/-- The state a successful START leaves (40 R124) meets the invariant. -/
theorem ArchInv.construct {a : Arch} (hs : startLegal a = true) :
    ArchInv a.deriveConstants.construct := by
  obtain ⟨f1, f2, f3, f4, f5⟩ := startLegal_bounds hs
  have sized : BuffersSized a.deriveConstants.construct :=
    ⟨by simp [Arch.construct], Nat.zero_lt_succ _, by simp [Arch.construct], Nat.zero_lt_succ _,
      by simp [Arch.construct, constructedEh]⟩
  refine ⟨sized, rfl, fun _ => hs, fun _ => rfl, nofun, fun _ => ⟨f1, ?_⟩, fun _ => rfl, nofun,
    fun _ => ⟨f4, fun i _ => by simp [Arch.construct]⟩⟩
  intro i hi
  have hi' : a.syncN ≤ i := hi
  unfold CBuf.slotVal
  by_cases h64 : i < 64
  · have : (a.deriveConstants.construct).eh.data = constructedEh a.syncN (a.threshold + 1) := rfl
    rw [this, constructedEh]
    simp [List.getD_eq_getElem?_getD, List.getElem?_range (show i < Config.syncLenMax from h64),
      show ¬ i < a.syncN by omega]
  · rw [List.getD_eq_default _ _ (by simp [Arch.construct, constructedEh, Config.syncLenMax]; omega)]
    rfl

/-- The trap entry (60 R284) keeps the invariant. -/
theorem ArchInv.takeDivergence {a : Arch} (h : ArchInv a) (hl : a.lifecycle = .run) :
    ArchInv a.takeDivergence := by
  obtain ⟨b, -, h3, h4, -, h6, h7, h8, h9⟩ := h
  have hr : a.lifecycle ≠ .config := by rw [hl]; decide
  refine ⟨b, rfl, fun _ => h3 hr, fun _ => ?_, nofun, fun _ => h6 hr, h7, h8, fun _ => h9 hr⟩
  exact congrArg (fun c : Arch => c.takeDivergence) (h4 hr)

end Sys2Proof.Safety
end

