-- ==== Sys2Proof/Laws/PerInstr.lean ====
section
/-! SUPPORT. Facts about every command as syntax, one lemma for each constructor. -/

namespace Sys2Proof.Laws

/-- The header of a command holds its operation's OPC and NDATA, the fields of its operands, and no
reserved bit (30 R80, R88). -/
def HeaderFields.Statement (i : Instr) : Prop :=
  hdrOpc i.header = i.opcode.byte ∧ hdrLen i.header = i.opcode.ndata ∧ hdrRsv i.header = 0#2 ∧
  hdrSel i.header = i.sel ∧ hdrImm i.header = i.imm

/-- The header fields of any command: the fields are read back as they were put in. -/
theorem headerFields_all (i : Instr) : HeaderFields.Statement i := by
  refine ⟨by simp [Instr.header], ?_, by simp [Instr.header], by simp [Instr.header],
    by simp [Instr.header]⟩
  simpa [Instr.header] using Nat.mod_eq_of_lt (ndata_lt i.opcode)

theorem HeaderFields.nop : HeaderFields.Statement .nop := headerFields_all _
theorem HeaderFields.reset : HeaderFields.Statement .reset := headerFields_all _
theorem HeaderFields.start : HeaderFields.Statement .start := headerFields_all _
theorem HeaderFields.csrRd (n : BitVec 16) : HeaderFields.Statement (.csrRd n) := headerFields_all _
theorem HeaderFields.csrWr (n : BitVec 16) (d0 : Word) : HeaderFields.Statement (.csrWr n d0) := headerFields_all _
theorem HeaderFields.cbRds (sel : BitVec 4) (k : BitVec 16) : HeaderFields.Statement (.cbRds sel k) := headerFields_all _
theorem HeaderFields.cbRdu (sel : BitVec 4) (j : BitVec 16) : HeaderFields.Statement (.cbRdu sel j) := headerFields_all _
theorem HeaderFields.pcTick : HeaderFields.Statement .pcTick := headerFields_all _
theorem HeaderFields.pcAdv (delta : Word) : HeaderFields.Statement (.pcAdv delta) := headerFields_all _
theorem HeaderFields.pcSin : HeaderFields.Statement .pcSin := headerFields_all _
theorem HeaderFields.pcCos : HeaderFields.Statement .pcCos := headerFields_all _
theorem HeaderFields.pcPhasor : HeaderFields.Statement .pcPhasor := headerFields_all _
theorem HeaderFields.piUpdate (e : Word) : HeaderFields.Statement (.piUpdate e) := headerFields_all _
theorem HeaderFields.interp (mu : Word) : HeaderFields.Statement (.interp mu) := headerFields_all _
theorem HeaderFields.agcTick (re im : Word) : HeaderFields.Statement (.agcTick re im) := headerFields_all _
theorem HeaderFields.ted : HeaderFields.Statement .ted := headerFields_all _
theorem HeaderFields.ssTick (re im : Word) : HeaderFields.Statement (.ssTick re im) := headerFields_all _
theorem HeaderFields.corrTick (imm : BitVec 16) : HeaderFields.Statement (.corrTick imm) := headerFields_all _
theorem HeaderFields.corrReset : HeaderFields.Statement .corrReset := headerFields_all _
theorem HeaderFields.pktTick (imm : BitVec 16) : HeaderFields.Statement (.pktTick imm) := headerFields_all _
theorem HeaderFields.pktRdw (w : BitVec 16) : HeaderFields.Statement (.pktRdw w) := headerFields_all _
theorem HeaderFields.lfsrNext : HeaderFields.Statement .lfsrNext := headerFields_all _
theorem HeaderFields.lfsrSeed : HeaderFields.Statement .lfsrSeed := headerFields_all _
theorem HeaderFields.descramble : HeaderFields.Statement .descramble := headerFields_all _
theorem HeaderFields.rxTick (re im : Word) : HeaderFields.Statement (.rxTick re im) := headerFields_all _

end Sys2Proof.Laws
end

