-- ==== Sys2Proof/Laws/Step.lean ====
section
/-! SUPPORT. What `exec` and `step` can do, said once: a command's result depends on the block's state
alone, and a step is one of five things. -/

namespace Sys2Proof.Machine

/-! ## Commands -/

/-- The work of a command on a block whose STATE admits its class. -/
def commandBody : Instr → Arch → CmdResult
  | .nop, a => .ok a {}
  | .reset, a => .ok a.applyReset {}
  | .start, a => if startLegal a then .ok a.deriveConstants.construct {} else .raise .cfgInvalid
  | .csrRd n, a =>
    match csrOf n with
    | none => .raise .badCsr
    | some c => .ok a { data := [csrRead a c] }
  | .csrWr n d, a =>
    match writableCsr n with
    | none => .raise .badCsr
    | some c => .ok (csrStore a c d) {}
  | .cbRds sel k, a => bufferRead a sel (readSigned a (s16 k))
  | .cbRdu sel j, a => bufferRead a sel (readUnsigned a (u16 j))
  | .pcTick, a => .ok a.tick.1 (overrunReply a.tick.2)
  | .pcAdv d, a => .ok (a.advanceBy d).1 (overrunReply (a.advanceBy d).2)
  | .pcSin, a => .ok a { data := [sinOf a.phase] }
  | .pcCos, a => .ok a { data := [cosOf a.phase] }
  | .pcPhasor, a => .ok a { data := [cosOf a.phase, sinOf a.phase] }
  | .piUpdate e, a => .ok (a.piUpdate e).1 { data := [(a.piUpdate e).2] }
  | .interp mu, a =>
    if muLegal mu then .ok a { data := [(interpolate a.raw mu).re, (interpolate a.raw mu).im] }
    else .raise .badOperand
  | .agcTick re im, a =>
    .ok (a.agcStep (sampleOperand re im)).1
      { data := [(a.agcStep (sampleOperand re im)).2.re, (a.agcStep (sampleOperand re im)).2.im] }
  | .ted, a => .ok a { data := [gardner a.ih] }
  | .ssTick re im, a => ssTickResult (a.countSample.ssStep (sampleOperand re im))
  | .corrTick imm, a =>
    .ok (a.corrStep (bitOperand imm)).1 { bit := (a.corrStep (bitOperand imm)).2 }
  | .corrReset, a => .ok a.corrReset.1 { bit := a.corrReset.2 }
  | .pktTick imm, a =>
    .ok (a.pktStep (bitOperand imm)).1 { pkt := (a.pktStep (bitOperand imm)).2 }
  | .pktRdw w, a =>
    if payloadWords a.pktL ≤ u16 w then .raise .indexRange
    else .ok a { data := [payloadWord a.payload a.pktL (u16 w)] }
  | .lfsrNext, a => .ok a.lfsrNext.1 { bit := a.lfsrNext.2 }
  | .lfsrSeed, a => .ok a.lfsrReseed {}
  | .descramble, a => .ok a.descramble {}
  | .rxTick re im, a =>
    rxTickResult a.sampleCount (a.countSample.ssStep (sampleOperand re im))

/-- The result of a command: CSR_WR checks its number before its class, every other command its class
before its work (60 R281). -/
def commandResult (i : Instr) (a : Arch) : CmdResult :=
  match i with
  | .csrWr n d =>
    match writableCsr n with
    | none => .raise .badCsr
    | some c => gated .write a fun a => .ok (csrStore a c d) {}
  | j => gated (cmdClass j.opcode) a (commandBody j)

/-- The outcome of a command is its result on the block's state, finished. -/
theorem exec_eq_finish (i : Instr) (s : State) :
    exec i s = finish i.opcode s (commandResult i s.arch) := by
  cases i with
  | csrWr n d =>
    show execCsrWr n d s = _
    cases hw : writableCsr n <;> simp only [execCsrWr, commandResult, hw] <;> rfl
  | _ => rfl

/-- Every command ends in a next state (60 R280). -/
theorem exec_next (i : Instr) (s : State) : ∃ t, exec i s = .next t := by
  rw [exec_eq_finish]; exact finish_next _ _ _

/-- A command of a class that STATE does not admit raises the class's error. -/
theorem commandResult_refused {i : Instr} {a : Arch} {rc : ResultCode}
    (hi : ∀ n d, i ≠ .csrWr n d) (h : classError (cmdClass i.opcode) a.lifecycle = some rc) :
    commandResult i a = .raise rc := by
  cases i with
  | csrWr n d => exact absurd rfl (hi n d)
  | _ => simp [commandResult, gated, h]

/-- A command of a class that STATE admits does its work. -/
theorem commandResult_run {i : Instr} {a : Arch}
    (h : classError (cmdClass i.opcode) a.lifecycle = none) :
    commandResult i a = commandBody i a := by
  cases i with
  | csrWr n d =>
    have h' : classError .write a.lifecycle = none := h
    cases hw : writableCsr n <;> simp [commandResult, commandBody, gated, h', hw]
  | _ => simp [commandResult, gated, h]

/-! ## Steps -/

/-- Everything a step can do. -/
theorem step_cases (s : State) :
    (s.cmdPort = [] ∧ step s = .next s) ∨
    (∃ es, s.cmdPort = .rstN :: es ∧ step s = .next (s.advancePort es).pinReset) ∨
    (∃ es, s.cmdPort = .rspReady :: es ∧ step s = .next (s.advancePort es).takeResponse) ∨
    (∃ w es i rest, s.cmdPort = .word w :: es ∧ decode (s.frameWith w) = .ok (i, rest) ∧
      step s = finish i.opcode (s.advancePort es).endFrame (commandResult i s.arch)) ∨
    (∃ w es e, s.cmdPort = .word w :: es ∧ decode (s.frameWith w) = .error e ∧
      step s = .next ((s.advancePort es).frameError (s.frameWith w) e)) := by
  unfold step
  rcases hp : s.cmdPort with _ | ⟨_ | _ | _, es⟩
  · exact .inl ⟨rfl, rfl⟩
  · next w =>
    cases hd : decode (s.frameWith w) with
    | error e => exact .inr (.inr (.inr (.inr ⟨w, es, e, rfl, hd, by simp only [hd]⟩)))
    | ok r =>
      obtain ⟨i, rest⟩ := r
      exact .inr (.inr (.inr (.inl ⟨w, es, i, rest, rfl, hd, by
        simp only [hd, exec_eq_finish]; rfl⟩)))
  · exact .inr (.inl ⟨es, rfl, rfl⟩)
  · exact .inr (.inr (.inl ⟨es, rfl, rfl⟩))

/-- The words of the current command are never empty once one is taken. -/
theorem State.frameWith_ne_nil (s : State) (w : Word) : s.frameWith w ≠ [] := by
  simp [State.frameWith]

/-- A taken word is the header, or follows the header of the words taken. -/
theorem State.frameWith_cons (s : State) (w : Word) : ∃ h ds, s.frameWith w = h :: ds := by
  unfold State.frameWith
  cases s.taken with
  | nil => exact ⟨w, [], rfl⟩
  | cons h ds => exact ⟨h, ds ++ [w], rfl⟩

end Sys2Proof.Machine
end

