-- ==== Sys2Proof/Laws/Results.lean ====
section
/-! SUPPORT. What the result of a command and its response can be, said once: the fields of a response
header, when a command answers OK or DIVERGED, how many words it answers, which CSR numbers are bad. -/

namespace Sys2Proof.Machine

open Sys2Proof.Safety

/-! ## Response headers -/

/-- The RC and PKT fields of a response header read back. -/
theorem rspHeader_rc (n : BitVec 2) (o : Opcode) (p b v : Bool) (rc : ResultCode) :
   let h := mkRspHeader n o.byte p b v (rcValue rc)
   h.extractLsb' 0 4 = rcValue rc ∧ h.extractLsb' 6 1 = BitVec.ofBool p := by
  have : n = 0 ∨ n = 1 ∨ n = 2 ∨ n = 3 := by
    have := n.isLt
    have h : n.toNat = 0 ∨ n.toNat = 1 ∨ n.toNat = 2 ∨ n.toNat = 3 := by omega
    rcases h with h | h | h | h <;> simp [← BitVec.toNat_inj, h]
  intro h
  simp only [h]
  clear h
  rcases this with rfl | rfl | rfl | rfl <;> cases p <;> cases b <;>
    cases v <;> cases rc <;> cases o <;> decide

/-- The fields of the header of an OK response. -/
theorem rspHeader_ok (o : Opcode) (r : Reply) (hl : r.data.length < 4) :
   let h := mkRspHeader (BitVec.ofNat 2 r.data.length) o.byte r.pkt r.bit r.valid (rcValue .ok)
   h.extractLsb' 8 8 = o.byte ∧ h.extractLsb' 7 1 = 0#1 ∧ h.extractLsb' 18 14 = 0#14 ∧
      (h.extractLsb' 16 2).toNat = r.data.length ∧
      h.extractLsb' 0 4 = 0#4 ∧ h.extractLsb' 6 1 = BitVec.ofBool r.pkt := by
  intro h
  have : ∀ n : Nat, n < 4 → ∀ (p b v : Bool) (o : Opcode),
     let h := mkRspHeader (BitVec.ofNat 2 n) o.byte p b v (rcValue .ok)
     h.extractLsb' 8 8 = o.byte ∧ h.extractLsb' 7 1 = 0#1 ∧ h.extractLsb' 18 14 = 0#14 ∧
      (h.extractLsb' 16 2).toNat = n ∧ h.extractLsb' 0 4 = 0#4 ∧ h.extractLsb' 6 1 = BitVec.ofBool p := by
    intro n hn p b v o
    have : n = 0 ∨ n = 1 ∨ n = 2 ∨ n = 3 := by omega
    rcases this with rfl | rfl | rfl | rfl <;> cases p <;> cases b <;> cases v <;> cases o <;> decide
  exact this _ hl r.pkt r.bit r.valid o

/-- The fields of the header of an error response. -/
theorem rspHeader_raise (o : Opcode) (rc : ResultCode) :
   let h := mkRspHeader 0#2 o.byte false false false (rcValue rc)
   h.extractLsb' 8 8 = o.byte ∧ h.extractLsb' 7 1 = 0#1 ∧ h.extractLsb' 18 14 = 0#14 ∧
      (h.extractLsb' 16 2).toNat = 0 ∧ h.extractLsb' 0 4 = rcValue rc ∧ h.extractLsb' 4 3 = 0#3 := by
  cases rc <;> cases o <;> decide

/-! ## Finished commands in the words of the claims -/

theorem finish_ok_answered (o : Opcode) (s : State) (a : Arch) (r : Reply) :
    finish o s (.ok a r) = .next (answered s a (okWords o r)) := rfl
theorem finish_raise_answered (o : Opcode) (s : State) (rc : ResultCode) :
    finish o s (.raise rc) = .next (answered s s.arch (errorWords o.byte rc)) := rfl
theorem finish_diverge_answered (o : Opcode) (s : State) (a : Arch) :
    finish o s (.diverge a)
      = .next (answered s a.takeDivergence (errorWords o.byte .diverged)) := rfl

/-! ## When a command completes -/

/-- A signed buffer read answers two words. -/
theorem readSigned_length {a : Arch} {k : Int} {b : Machine.Instance} {ws : List Word}
    (h : readSigned a k b = some ws) : ws.length = 2 := by
  cases b <;> simp only [readSigned, Option.map_eq_some_iff] at h <;> obtain ⟨v, _, rfl⟩ := h <;> rfl

/-- An unsigned buffer read answers two words. -/
theorem readUnsigned_length {a : Arch} {k : Nat} {b : Machine.Instance} {ws : List Word}
    (h : readUnsigned a k b = some ws) : ws.length = 2 := by
  cases b <;> simp only [readUnsigned, Option.map_eq_some_iff] at h <;> obtain ⟨v, _, rfl⟩ := h <;> rfl

/-- An OK command answers the number of words its row names (30 R88). -/
theorem commandBody_data {i : Instr} {a a' : Arch} {r : Reply} (h : commandBody i a = .ok a' r) :
    r.data.length = i.opcode.nresp := by
  cases i with
  | csrRd n => simp only [commandBody] at h; split at h <;> cases h; rfl
  | csrWr n d => simp only [commandBody] at h; split at h <;> cases h; rfl
  | start => simp only [commandBody] at h; split at h <;> cases h; rfl
  | interp n => simp only [commandBody] at h; split at h <;> cases h; rfl
  | pktRdw n => simp only [commandBody] at h; split at h <;> cases h; rfl
  | pcTick =>
    simp only [commandBody, CmdResult.ok.injEq] at h; obtain ⟨_, rfl⟩ := h
    unfold overrunReply; split <;> rfl
  | pcAdv d =>
    simp only [commandBody, CmdResult.ok.injEq] at h; obtain ⟨_, rfl⟩ := h
    unfold overrunReply; split <;> rfl
  | ssTick re im =>
    simp only [commandBody] at h
    unfold ssTickResult at h; split at h <;> cases h <;> rfl
  | rxTick re im =>
    simp only [commandBody] at h
    unfold rxTickResult at h; split at h <;> cases h <;> rfl
  | cbRds sel k =>
    simp only [commandBody, bufferRead] at h
    split at h
    · cases h
    · split at h
      · cases h
      · cases h
        next b _ ws hr =>
        exact readSigned_length hr
  | cbRdu sel k =>
    simp only [commandBody, bufferRead] at h
    split at h
    · cases h
    · split at h
      · cases h
      · cases h
        next b _ ws hr =>
        exact readUnsigned_length hr
  | _ => simp only [commandBody, CmdResult.ok.injEq] at h; obtain ⟨_, rfl⟩ := h; rfl

/-- An OK result is that of the work, in a STATE that admits the class. -/
theorem commandResult_ok {i : Instr} {a a' : Arch} {r : Reply} (h : commandResult i a = .ok a' r) :
    commandBody i a = .ok a' r ∧ classError (cmdClass i.opcode) a.lifecycle = none := by
  cases hc : classError (cmdClass i.opcode) a.lifecycle with
  | none => rw [commandResult_run hc] at h; exact ⟨h, rfl⟩
  | some rc =>
    exfalso
    cases i with
    | csrWr n d =>
      have h' : classError .write a.lifecycle = some rc := hc
      cases hw : writableCsr n <;> simp [commandResult, gated, h', hw] at h
    | _ => rw [commandResult_refused (by simp) hc] at h; cases h

/-- A divergence is that of the work, in a STATE that admits the class. -/
theorem commandResult_diverge {i : Instr} {a a' : Arch} (h : commandResult i a = .diverge a') :
    commandBody i a = .diverge a' ∧ classError (cmdClass i.opcode) a.lifecycle = none := by
  cases hc : classError (cmdClass i.opcode) a.lifecycle with
  | none => rw [commandResult_run hc] at h; exact ⟨h, rfl⟩
  | some rc =>
    exfalso
    cases i with
    | csrWr n d =>
      have h' : classError .write a.lifecycle = some rc := hc
      cases hw : writableCsr n <;> simp [commandResult, gated, h', hw] at h
    | _ => rw [commandResult_refused (by simp) hc] at h; cases h

/-- Only the commands that feed a sample diverge, and the work itself leaves STATE. -/
theorem commandBody_diverge {i : Instr} {a a' : Arch} (h : commandBody i a = .diverge a') :
    takesSample i = true ∧ a'.lifecycle = a.lifecycle := by
  cases i with
  | csrRd n => simp only [commandBody] at h; split at h <;> cases h
  | csrWr n d => simp only [commandBody] at h; split at h <;> cases h
  | start => simp only [commandBody] at h; split at h <;> cases h
  | interp n => simp only [commandBody] at h; split at h <;> cases h
  | pktRdw n => simp only [commandBody] at h; split at h <;> cases h
  | ssTick re im =>
    simp only [commandBody] at h
    unfold ssTickResult at h; split at h <;> cases h
    rename_i he; have := congrArg Prod.fst he; simp only at this
    refine ⟨rfl, ?_⟩; simp [← this]
  | rxTick re im =>
    simp only [commandBody] at h
    unfold rxTickResult at h; split at h <;> cases h
    rename_i he; have := congrArg Prod.fst he; simp only at this
    refine ⟨rfl, ?_⟩; simp [← this]
  | cbRds sel k =>
    simp only [commandBody, bufferRead] at h
    split at h
    · cases h
    · split at h <;> cases h
  | cbRdu sel k =>
    simp only [commandBody, bufferRead] at h
    split at h
    · cases h
    · split at h <;> cases h
  | _ => simp only [commandBody] at h; cases h

/-- The work of every command but RESET and START leaves STATE and FAULT_CAUSE. -/
theorem commandBody_lifecycle {i : Instr} {a a' : Arch} {r : Reply} (h : commandBody i a = .ok a' r)
    (h1 : i ≠ .reset) (h2 : i ≠ .start) :
    a'.lifecycle = a.lifecycle ∧ a'.faultCause = a.faultCause := by
  cases i with
  | reset => exact absurd rfl h1
  | start => exact absurd rfl h2
  | csrRd n => simp only [commandBody] at h; split at h <;> cases h; exact ⟨rfl, rfl⟩
  | csrWr n d =>
    simp only [commandBody] at h
    split at h <;> cases h
    unfold csrStore; split <;> exact ⟨rfl, rfl⟩
  | interp n => simp only [commandBody] at h; split at h <;> cases h; exact ⟨rfl, rfl⟩
  | pktRdw n => simp only [commandBody] at h; split at h <;> cases h; exact ⟨rfl, rfl⟩
  | pcTick =>
    simp only [commandBody, CmdResult.ok.injEq] at h; obtain ⟨rfl, _⟩ := h
    simp [Arch.tick_eq]
  | ssTick re im =>
    simp only [commandBody] at h
    unfold ssTickResult at h; split at h <;> cases h <;> rename_i he
    all_goals have := congrArg Prod.fst he; simp only at this; simp [← this]
  | cbRds sel k =>
    simp only [commandBody, bufferRead] at h
    split at h
    · cases h
    · split at h <;> cases h; exact ⟨rfl, rfl⟩
  | cbRdu sel k =>
    simp only [commandBody, bufferRead] at h
    split at h
    · cases h
    · split at h <;> cases h; exact ⟨rfl, rfl⟩
  | rxTick re im =>
    simp only [commandBody] at h
    unfold rxTickResult at h; split at h <;> cases h <;> rename_i he
    all_goals have := congrArg Prod.fst he; simp only at this; simp [← this]
  | _ => simp only [commandBody, CmdResult.ok.injEq] at h; obtain ⟨rfl, _⟩ := h; simp [Arch.agcStep]

/-! ## CSR numbers -/

/-- The numbers CSR_RD refuses are those the register map does not assign. -/
theorem csrOf_eq_none_iff {a : Arch} {n : BitVec 16} :
    csrOf n = none ↔ ∀ p ∈ registerMap a, p.1 ≠ n := by
  constructor
  · intro h
    unfold csrOf at h
    rw [List.find?_eq_none] at h
    simp only [registerMap, List.mem_cons, List.not_mem_nil, or_false, forall_eq_or_imp, forall_eq]
    refine ⟨?_, ?_, ?_, ?_, ?_, ?_, ?_, ?_, ?_, ?_, ?_, ?_, ?_, ?_, ?_, ?_,
      ?_, ?_, ?_, ?_, ?_, ?_, ?_, ?_, ?_, ?_, ?_, ?_, ?_, ?_, ?_, ?_⟩ <;>
      (intro hn; subst hn; exact absurd h (by decide))
  · intro hn
    unfold csrOf
    rw [List.find?_eq_none]
    intro c hc h
    simp only [beq_iff_eq] at h
    subst h
    simp only [registerMap, List.mem_cons, List.not_mem_nil, or_false, forall_eq_or_imp, forall_eq] at hn
    cases c <;> simp_all [csrNumber]

/-- The numbers CSR_WR refuses are those of no configuration register. -/
theorem writableCsr_eq_none_iff {n : BitVec 16} : writableCsr n = none ↔ n ∉ configNumbers := by
  constructor
  · intro h hn
    simp only [configNumbers, List.mem_cons, List.not_mem_nil, or_false] at hn
    rcases hn with rfl | rfl | rfl | rfl | rfl | rfl | rfl | rfl | rfl | rfl | rfl <;> revert h <;> decide
  · intro hn
    unfold writableCsr
    rw [Option.filter_eq_none_iff]
    intro c hc
    have := List.find?_some (show allCsrs.find? (fun c => csrNumber c == n) = some c from hc)
    simp only [beq_iff_eq] at this
    subst this
    revert hn
    cases c <;> decide

end Sys2Proof.Machine
end

