-- ==== Sys2Proof/Machine/HostSide.lean ====
section
/-! DEFINITION. The host's side of the command port, which no step uses: the byte order of a byte-wide
link (20 R66), the assembler syntax as tokens (30 R96) and the pseudo-commands (30 R97). -/

namespace Sys2Proof.Machine

/-! ## A byte-wide link -/

/-- The bytes of a word on a byte-wide link, least significant byte first (20 R66). -/
def wordBytes (w : Word) : List (BitVec 8) := (List.range 4).map fun i => w.extractLsb' (8 * i) 8

/-- The word of four bytes that came over a byte-wide link (20 R66). -/
def bytesWord (b0 b1 b2 b3 : BitVec 8) : Word := b3 ++ (b2 ++ (b1 ++ b0))

/-! ## Assembler syntax -/

/-- An operand as the assembler writes it (30 R96). -/
inductive AsmOperand where
  /-- A register by its name. -/
  | name (s : String)
  /-- An integer. -/
  | int (i : Int)
  /-- A data word, as its pattern. -/
  | word (w : Word)
deriving DecidableEq, Repr

/-- A line of assembler: the mnemonic and the operands, which commas separate (30 R96). -/
structure AsmLine where
  mnemonic : String
  operands : List AsmOperand
deriving DecidableEq, Repr

/-- The name of a register (10 R45). -/
def csrName : Csr → String
  | .id => "ID"
  | .version => "VERSION"
  | .status => "STATUS"
  | .params => "PARAMS"
  | .pktLenMax => "PKT_LEN_MAX"
  | .sps => "SPS"
  | .loopBw => "LOOP_BW"
  | .loopDamp => "LOOP_DAMP"
  | .agcAlpha => "AGC_ALPHA"
  | .syncLen => "SYNC_LEN"
  | .syncPatLo => "SYNC_PAT_LO"
  | .syncPatHi => "SYNC_PAT_HI"
  | .threshold => "THRESHOLD"
  | .pktLen => "PKT_LEN"
  | .lfsrPoly => "LFSR_POLY"
  | .lfsrSeed => "LFSR_SEED"
  | .rate => "RATE"
  | .kp => "KP"
  | .ki => "KI"
  | .agcOma => "AGC_OMA"
  | .nolock => "NOLOCK"
  | .phase => "PHASE"
  | .integ => "INTEG"
  | .agcP => "AGC_P"
  | .lfsrState => "LFSR_STATE"
  | .capidx => "CAPIDX"
  | .cursors => "CURSORS"
  | .sampleCountLo => "SAMPLE_COUNT_LO"
  | .sampleCountHi => "SAMPLE_COUNT_HI"
  | .packetCount => "PACKET_COUNT"
  | .pktSampleIndexLo => "PKT_SAMPLE_INDEX_LO"
  | .pktSampleIndexHi => "PKT_SAMPLE_INDEX_HI"

/-- A CSR operand: the register's name, or the number where it has none (30 R96). -/
def csrOperand (n : BitVec 16) : AsmOperand :=
  match csrOf n with
  | some c => .name (csrName c)
  | none => .int n.toNat

/-- A buffer operand: raw, ih or eh, or the number where SEL names no instance (30 R96). -/
def instanceOperand (sel : BitVec 4) : AsmOperand :=
  match instanceOf sel with
  | some .raw => .name "raw"
  | some .ih => .name "ih"
  | some .eh => .name "eh"
  | none => .int sel.toNat

/-- The textual form of a command (30 R96). -/
def asmOf : Instr → AsmLine
  | .nop => ⟨"nop", []⟩
  | .reset => ⟨"reset", []⟩
  | .start => ⟨"start", []⟩
  | .csrRd n => ⟨"csr_rd", [csrOperand n]⟩
  | .csrWr n d0 => ⟨"csr_wr", [csrOperand n, .word d0]⟩
  | .cbRds sel k => ⟨"cb_rds", [instanceOperand sel, .int (s16 k)]⟩
  | .cbRdu sel j => ⟨"cb_rdu", [instanceOperand sel, .int (u16 j)]⟩
  | .pcTick => ⟨"pc_tick", []⟩
  | .pcAdv delta => ⟨"pc_adv", [.word delta]⟩
  | .pcSin => ⟨"pc_sin", []⟩
  | .pcCos => ⟨"pc_cos", []⟩
  | .pcPhasor => ⟨"pc_phasor", []⟩
  | .piUpdate e => ⟨"pi_update", [.word e]⟩
  | .interp mu => ⟨"interp", [.word mu]⟩
  | .agcTick re im => ⟨"agc_tick", [.word re, .word im]⟩
  | .ted => ⟨"ted", []⟩
  | .ssTick re im => ⟨"ss_tick", [.word re, .word im]⟩
  | .corrTick imm => ⟨"corr_tick", [.int imm.toNat]⟩
  | .corrReset => ⟨"corr_reset", []⟩
  | .pktTick imm => ⟨"pkt_tick", [.int imm.toNat]⟩
  | .pktRdw w => ⟨"pkt_rdw", [.int (u16 w)]⟩
  | .lfsrNext => ⟨"lfsr_next", []⟩
  | .lfsrSeed => ⟨"lfsr_seed", []⟩
  | .descramble => ⟨"descramble", []⟩
  | .rxTick re im => ⟨"rx_tick", [.word re, .word im]⟩

/-! ## Pseudo-commands -/

/-- `sync` (30 R97, 20 R71). -/
def pseudoSync : List Instr := [.nop]
/-- `rd64 SAMPLE_COUNT` (30 R97). -/
def pseudoReadSampleCount : List Instr :=
  [.csrRd (csrNumber .sampleCountLo), .csrRd (csrNumber .sampleCountHi)]
/-- `rd64 PKT_SAMPLE_INDEX` (30 R97). -/
def pseudoReadPktSampleIndex : List Instr :=
  [.csrRd (csrNumber .pktSampleIndexLo), .csrRd (csrNumber .pktSampleIndexHi)]
/-- `pkt_read` for a payload of `l` bits (30 R97). -/
def pseudoPacketRead (l : Nat) : List Instr :=
  (List.range ((l + 31) / 32)).map fun w => .pktRdw (BitVec.ofNat 16 w)
/-- `configure`: RESET, one CSR_WR for each pair in the order given, START (30 R97). -/
def pseudoConfigure (regs : List (Csr × Word)) : List Instr :=
  .reset :: (regs.map fun r => .csrWr (csrNumber r.1) r.2) ++ [.start]
/-- `feed`: one RX_TICK for each sample (30 R97). -/
def pseudoFeed (xs : List Cplx) : List Instr := xs.map fun x => .rxTick x.re x.im

end Sys2Proof.Machine
end

