-- ==== Sys2Proof/Tests/Slice0.lean ====
section
/-! SUPPORT. Small tests with expected values from the spec (95_test_vectors.md unless a comment names
another rule), and for every statement with hypotheses a state and operands that meet them. -/

set_option Elab.async false

namespace Sys2Proof.Tests

open Sys2Proof.Machine Sys2Proof.Safety

/-! ## Well-formedness -/

/-- 2.9: IMM = 2 and IMM = 0x8001 are RESERVED_FIELD. -/
theorem test_wellFormed_refuses :
    (Instr.corrTick 2#16).wellFormed = false ∧ (Instr.corrTick 0x8001#16).wellFormed = false ∧
    (Instr.pktTick 2#16).wellFormed = false ∧ (Instr.pktTick 0x8001#16).wellFormed = false := by decide
theorem test_wellFormed_admits :
    (Instr.corrTick 0#16).wellFormed = true ∧ (Instr.corrTick 1#16).wellFormed = true ∧
    (Instr.pktTick 0#16).wellFormed = true ∧ (Instr.pktTick 1#16).wellFormed = true := by decide

/-! ## Decoding: the header fields of 30 R80 with the values of 30 R88, IMM RSV LEN SEL OPC -/

theorem test_decode_nop :
    decode [0#16 ++ 0b00#2 ++ 0b00#2 ++ 0#4 ++ 0x00#8] = .ok (.nop, []) := by decide
theorem test_decode_reset :
    decode [0#16 ++ 0b00#2 ++ 0b00#2 ++ 0#4 ++ 0x01#8] = .ok (.reset, []) := by decide
theorem test_decode_start :
    decode [0#16 ++ 0b00#2 ++ 0b00#2 ++ 0#4 ++ 0x02#8] = .ok (.start, []) := by decide
theorem test_decode_csrRd :
    decode [0x003A#16 ++ 0b00#2 ++ 0b00#2 ++ 0#4 ++ 0x03#8] = .ok (.csrRd 0x03A#16, []) := by decide
theorem test_decode_csrWr :
    decode [0x0010#16 ++ 0b00#2 ++ 0b01#2 ++ 0#4 ++ 0x04#8, 0x40800000#32]
      = .ok (.csrWr 0x010#16 0x40800000#32, []) := by decide
theorem test_decode_cbRds :
    decode [0xFFF7#16 ++ 0b00#2 ++ 0b00#2 ++ 1#4 ++ 0x10#8] = .ok (.cbRds 1#4 0xFFF7#16, []) := by decide
theorem test_decode_cbRdu :
    decode [0x0008#16 ++ 0b00#2 ++ 0b00#2 ++ 2#4 ++ 0x11#8] = .ok (.cbRdu 2#4 8#16, []) := by decide
theorem test_decode_pcTick :
    decode [0#16 ++ 0b00#2 ++ 0b00#2 ++ 0#4 ++ 0x20#8] = .ok (.pcTick, []) := by decide
theorem test_decode_pcAdv :
    decode [0#16 ++ 0b00#2 ++ 0b01#2 ++ 0#4 ++ 0x21#8, 0x40600000#32]
      = .ok (.pcAdv 0x40600000#32, []) := by decide
theorem test_decode_pcSin :
    decode [0#16 ++ 0b00#2 ++ 0b00#2 ++ 0#4 ++ 0x22#8] = .ok (.pcSin, []) := by decide
theorem test_decode_pcCos :
    decode [0#16 ++ 0b00#2 ++ 0b00#2 ++ 0#4 ++ 0x23#8] = .ok (.pcCos, []) := by decide
theorem test_decode_pcPhasor :
    decode [0#16 ++ 0b00#2 ++ 0b00#2 ++ 0#4 ++ 0x24#8] = .ok (.pcPhasor, []) := by decide
theorem test_decode_piUpdate :
    decode [0#16 ++ 0b00#2 ++ 0b01#2 ++ 0#4 ++ 0x30#8, 0xBF800000#32]
      = .ok (.piUpdate 0xBF800000#32, []) := by decide
theorem test_decode_interp :
    decode [0#16 ++ 0b00#2 ++ 0b01#2 ++ 0#4 ++ 0x40#8, 0x3F000000#32]
      = .ok (.interp 0x3F000000#32, []) := by decide
theorem test_decode_agcTick :
    decode [0#16 ++ 0b00#2 ++ 0b10#2 ++ 0#4 ++ 0x50#8, 0x40400000#32, 0x40800000#32]
      = .ok (.agcTick 0x40400000#32 0x40800000#32, []) := by decide
theorem test_decode_ted :
    decode [0#16 ++ 0b00#2 ++ 0b00#2 ++ 0#4 ++ 0x60#8] = .ok (.ted, []) := by decide
theorem test_decode_ssTick :
    decode [0#16 ++ 0b00#2 ++ 0b10#2 ++ 0#4 ++ 0x70#8, 0xC0000000#32, 0x3F800000#32]
      = .ok (.ssTick 0xC0000000#32 0x3F800000#32, []) := by decide
theorem test_decode_corrTick :
    decode [1#16 ++ 0b00#2 ++ 0b00#2 ++ 0#4 ++ 0x80#8] = .ok (.corrTick 1#16, []) := by decide
theorem test_decode_corrReset :
    decode [0#16 ++ 0b00#2 ++ 0b00#2 ++ 0#4 ++ 0x81#8] = .ok (.corrReset, []) := by decide
theorem test_decode_pktTick :
    decode [1#16 ++ 0b00#2 ++ 0b00#2 ++ 0#4 ++ 0x90#8] = .ok (.pktTick 1#16, []) := by decide
theorem test_decode_pktRdw :
    decode [0x00FF#16 ++ 0b00#2 ++ 0b00#2 ++ 0#4 ++ 0x91#8] = .ok (.pktRdw 0xFF#16, []) := by decide
theorem test_decode_lfsrNext :
    decode [0#16 ++ 0b00#2 ++ 0b00#2 ++ 0#4 ++ 0xA0#8] = .ok (.lfsrNext, []) := by decide
theorem test_decode_lfsrSeed :
    decode [0#16 ++ 0b00#2 ++ 0b00#2 ++ 0#4 ++ 0xA1#8] = .ok (.lfsrSeed, []) := by decide
theorem test_decode_descramble :
    decode [0#16 ++ 0b00#2 ++ 0b00#2 ++ 0#4 ++ 0xA2#8] = .ok (.descramble, []) := by decide
theorem test_decode_rxTick :
    decode [0#16 ++ 0b00#2 ++ 0b10#2 ++ 0#4 ++ 0xB0#8, 0x3F800000#32, 0#32]
      = .ok (.rxTick 0x3F800000#32 0#32, []) := by decide

/-- 2.12: what framing rejects. -/
theorem test_decode_rejects_opcodes :
    decode [0x000000FF#32] = .error .illegalOpcode ∧ decode [0x00000012#32] = .error .illegalOpcode ∧
    decode [0x000030C0#32, 0#32, 0#32, 0#32] = .error .illegalOpcode := by decide
theorem test_decode_rejects_fields :
    decode [0x0001C020#32] = .error .reservedField ∧
    decode [0x00010000#32] = .error .reservedField ∧ decode [0x00000100#32] = .error .reservedField ∧
    decode [0x00004000#32] = .error .reservedField ∧ decode [0x00020080#32] = .error .reservedField := by
  decide
theorem test_decode_rejects_lengths :
    decode [0x00001000#32, 0#32] = .error .reservedField ∧
    decode [0x00001020#32, 0#32] = .error .reservedField ∧
    decode [0x00000070#32] = .error .reservedField := by decide
/-- 30 R88: no header meets two rows of the match and mask table. -/
theorem test_matchMask_disjoint : Opcode.all.Pairwise fun o p =>
    (o.matchMask.1 ^^^ p.matchMask.1) &&& o.matchMask.2 &&& p.matchMask.2 ≠ 0#32 := by decide +kernel
/-- The table's bit numbering: CSR_WR SPS, 4.0 as one 64-bit number. -/
theorem test_decodeTableWord :
    decodeTableWord 64 0x4080000000101004 = some (.csrWr 0x010#16 0x40800000#32) ∧
    decodeTableWord 32 0x00101004 = some (.csrWr 0x010#16 0#32) ∧
    decodeTableWord 32 0xFF = none := by decide

/-! ## States -/

/-- Configuration T before START. -/
def confT : Arch :=
  { Arch.reset with
    sps := 0x40800000#32, loopBw := 0#32, loopDamp := 0x3F800000#32, agcAlpha := 0x3F000000#32
    syncLen := 4#32, syncPatLo := 0xD#32, threshold := 0#32, pktLen := 4#32
    lfsrPoly := 0xA9#8, lfsrSeed := 0xFF#8 }
/-- Configuration T4 before START. -/
def confT4 : Arch :=
  { confT with sps := 0x40000000#32, loopBw := 0x3F800000#32, loopDamp := 0x3F000000#32 }
/-- T: right after START. -/
def startedT : Arch := confT.deriveConstants.construct
/-- T in FAULT. -/
def faultedT : Arch := startedT.takeDivergence
/-- T after the ten samples of 1.1. -/
def bufferedT : Arch :=
  { startedT with
    raw := ⟨[⟨0x41100000#32, 0#32⟩, ⟨0x41200000#32, 0#32⟩, ⟨0x40400000#32, 0#32⟩,
      ⟨0x40800000#32, 0#32⟩, ⟨0x40A00000#32, 0#32⟩, ⟨0x40C00000#32, 0#32⟩, ⟨0x40E00000#32, 0#32⟩,
      ⟨0x41000000#32, 0#32⟩], 2⟩
    ih := ⟨[⟨0x40C00000#32, 0#32⟩, ⟨0x41000000#32, 0#32⟩, ⟨0x40800000#32, 0#32⟩], 2⟩ }
/-- The taps of 2.5 and the IH of 2.7. -/
def tapsT : Arch :=
  { startedT with
    raw := ⟨[⟨0x3F800000#32, 0x3F000000#32⟩, ⟨0x40000000#32, 0xBF800000#32⟩, ⟨0x40800000#32, 0#32⟩,
      ⟨0x41000000#32, 0x40000000#32⟩, ⟨0#32, 0#32⟩, ⟨0#32, 0#32⟩, ⟨0#32, 0#32⟩, ⟨0#32, 0#32⟩], 4⟩
    ih := ⟨[⟨0#32, 0#32⟩, ⟨0x40000000#32, 0xBF800000#32⟩, ⟨0x40800000#32, 0xC0000000#32⟩], 0⟩ }
/-- P4 before its seventh sample. -/
def divergingT4 : Arch :=
  { confT4.deriveConstants.construct with
    raw := ⟨[⟨0x3F800000#32, 0#32⟩, ⟨0x40400000#32, 0#32⟩, ⟨0xC0000000#32, 0x3F800000#32⟩,
      ⟨0x40A00000#32, 0xBF800000#32⟩, ⟨0x40800000#32, 0x40800000#32⟩, ⟨0xC0400000#32, 0x40000000#32⟩,
      ⟨0#32, 0#32⟩, ⟨0#32, 0#32⟩], 6⟩
    ih := ⟨[⟨0x40400000#32, 0#32⟩, ⟨0#32, 0#32⟩, ⟨0x3F800000#32, 0#32⟩], 1⟩
    phase := 0x40643F6C#32, integ := 0xC0C00000#32, sampleCount := 6#64 }
/-- P2 before its fourth symbol. -/
def scanningT : Arch :=
  { startedT with eh := ⟨[0#32, 2#32, 0#32, 3#32] ++ List.replicate 60 0#32, 3⟩ }
/-- P2 before its eighth symbol. -/
def capturingT : Arch := { startedT with pstate := .capturing, capidx := 3, payload := 6#8192 }
/-- P2 after its eighth symbol. -/
def packetT : Arch := { startedT with payload := 6#8192, pktAvail := true, packetCount := 1#32 }
/-- P3 before its thirty-second sample, as far as that sample reads it. -/
def chainT : Arch :=
  { capturingT with
    raw := ⟨List.replicate 4 ⟨0x3F800000#32, 0#32⟩ ++ List.replicate 3 ⟨0xBF800000#32, 0#32⟩ ++
      [⟨0x3F800000#32, 0#32⟩], 7⟩
    phase := 0x40490FDB#32, gate := true, sampleCount := 31#64 }

/-- The block in a state, with idle ports. -/
def inState (a : Arch) : State := State.reset.withArch a
/-- The block in a state, words taken, and what the host does next. -/
def atPort (a : Arch) (taken : List Word) (es : List PortEvent) : State :=
  { arch := a, taken := taken, cmdPort := es, rspPort := [] }
/-- The response of one command. -/
def answer (a : Arch) (i : Instr) : List Word :=
  match exec i (inState a) with
  | .next t => t.rspPort
  | .fault _ => []
  | .refused _ => []
/-- The state one command leaves. -/
def left (a : Arch) (i : Instr) : Arch :=
  match exec i (inState a) with
  | .next t => t.arch
  | .fault _ => Arch.reset
  | .refused _ => Arch.reset

/-! ## One step of each command -/

theorem test_nop : answer Arch.reset .nop = [0x00000000#32] ∧ answer faultedT .nop = [0x00000000#32] := by
  decide +kernel
theorem test_reset :
    answer faultedT .reset = [0x00000100#32] ∧ (left faultedT .reset).lifecycle = .config ∧
    (left faultedT .reset).sps = 0#32 ∧ (left faultedT .reset).nolock = 0#32 := by decide +kernel
theorem test_start :
    answer confT .start = [0x00000200#32] ∧ (left confT .start).rate = 0x40490FDB#32 ∧
    (left confT .start).agcOma = 0x3F000000#32 ∧ (left confT .start).nolock = 1#32 ∧
    (left confT .start).lfsr = 0xFF#8 ∧ (left confT4 .start).kp = 0x3F800000#32 ∧
    (left confT4 .start).ki = 0x40000000#32 := by decide +kernel
theorem test_start_invalid :
    answer Arch.reset .start = [0x00000208#32] ∧ answer startedT .start = [0x00000203#32] ∧
    answer { confT with sps := 0x3FC00000#32 } .start = [0x00000208#32] ∧
    answer { confT with agcAlpha := 0x3F800000#32 } .start = [0x00000208#32] ∧
    answer { confT with syncLen := 65#32 } .start = [0x00000208#32] ∧
    answer { confT with threshold := 65536#32 } .start = [0x00000208#32] ∧
    answer { confT with pktLen := 8193#32 } .start = [0x00000208#32] ∧
    answer { confT with loopBw := 0x5F8AC723#32 } .start = [0x00000208#32] ∧
    answer { confT with syncLen := 64#32, threshold := 65535#32, pktLen := 8192#32 } .start
      = [0x00000200#32] := by decide +kernel
theorem test_csrRd :
    answer Arch.reset (.csrRd 0x000#16) = [0x00010300#32, 0x52524644#32] ∧
    answer startedT (.csrRd 0x003#16) = [0x00010300#32, 0x00013840#32] ∧
    answer startedT (.csrRd 0x005#16) = [0x00000306#32] := by decide +kernel
theorem test_csrRd_status :
    answer faultedT (.csrRd 0x002#16) = [0x00010300#32, 0x00000902#32] ∧
    answer packetT (.csrRd 0x002#16) = [0x00010300#32, 0x00000011#32] ∧
    answer bufferedT (.csrRd 0x035#16) = [0x00010300#32, 0x00000202#32] := by decide +kernel
theorem test_csrWr :
    answer Arch.reset (.csrWr 0x019#16 0x123#32) = [0x00000400#32] ∧
    (left Arch.reset (.csrWr 0x019#16 0x123#32)).lfsrPoly = 0x23#8 ∧
    (left Arch.reset (.csrWr 0x010#16 0x40800000#32)).sps = 0x40800000#32 := by decide +kernel
theorem test_csrWr_refused :
    answer Arch.reset (.csrWr 0x020#16 1#32) = [0x00000406#32] ∧
    answer startedT (.csrWr 0x01B#16 1#32) = [0x00000406#32] ∧
    answer startedT (.csrWr 0x010#16 0x40000000#32) = [0x00000403#32] ∧
    (left startedT (.csrWr 0x010#16 0x40000000#32)).sps = 0x40800000#32 := by decide +kernel
theorem test_cbRds :
    answer bufferedT (.cbRds 0#4 0xFFF8#16) = [0x00021000#32, 0x41200000#32, 0#32] ∧
    answer bufferedT (.cbRds 0#4 7#16) = [0x00021000#32, 0x41100000#32, 0#32] ∧
    answer bufferedT (.cbRds 1#4 0xFFFD#16) = [0x00021000#32, 0x41000000#32, 0#32] := by decide +kernel
theorem test_cbRds_refused :
    answer bufferedT (.cbRds 0#4 8#16) = [0x00001005#32] ∧
    answer bufferedT (.cbRds 0#4 0xFFF7#16) = [0x00001005#32] ∧
    answer bufferedT (.cbRds 3#4 0#16) = [0x00001007#32] ∧
    answer Arch.reset (.cbRds 3#4 0#16) = [0x00001003#32] := by decide +kernel
theorem test_cbRdu :
    answer bufferedT (.cbRdu 0#4 7#16) = [0x00021100#32, 0x41200000#32, 0#32] ∧
    answer bufferedT (.cbRdu 0#4 8#16) = [0x00021100#32, 0x40400000#32, 0#32] ∧
    answer bufferedT (.cbRdu 1#4 3#16) = [0x00021100#32, 0x40800000#32, 0#32] ∧
    answer bufferedT (.cbRdu 2#4 4#16) = [0x00021100#32, 1#32, 0#32] := by decide +kernel
theorem test_cbRdu_refused :
    answer bufferedT (.cbRdu 0#4 9#16) = [0x00001105#32] ∧
    answer bufferedT (.cbRdu 1#4 4#16) = [0x00001105#32] ∧
    answer bufferedT (.cbRdu 2#4 5#16) = [0x00001105#32] := by decide +kernel
/-- 2.2, SPS = 3. -/
theorem test_pcTick :
    answer { startedT with rate := 0x40860A92#32, phase := 0x40860A92#32 } .pcTick
      = [0x00012010#32, 0x40060A92#32] ∧
    answer { startedT with rate := 0x40860A92#32 } .pcTick = [0x00012000#32, 0#32] := by decide +kernel
theorem test_pcTick_nan :
    answer { startedT with phase := 0x7FC00000#32 } .pcTick = [0x00012000#32, 0#32] ∧
    answer faultedT .pcTick = [0x00002004#32] := by decide +kernel
theorem test_pcAdv :
    answer { startedT with phase := 0x40490FDB#32 } (.pcAdv 0x40600000#32)
      = [0x00012110#32, 0x3EB78130#32] ∧
    (left { startedT with phase := 0x3EB78130#32 } (.pcAdv 0xBF800000#32)).phase = 0xBF243F68#32 ∧
    (left { startedT with phase := 0xBF243F68#32 } (.pcAdv 0x41A00000#32)).phase = 0x4151341C#32 := by
  decide +kernel
theorem test_pcAdv_edges :
    answer startedT (.pcAdv 0x40C90FDB#32) = [0x00012110#32, 0#32] ∧
    answer startedT (.pcAdv 0x40C90FDA#32) = [0x00012100#32, 0#32] ∧
    (left startedT (.pcAdv 0x7FC00000#32)).phase = 0x7FC00000#32 := by decide +kernel
theorem test_pcSin : answer startedT .pcSin = [0x00012200#32, 0#32] ∧
    answer Arch.reset .pcSin = [0x00002203#32] := by decide +kernel
theorem test_pcCos : answer startedT .pcCos = [0x00012300#32, 0x3F800000#32] := by decide +kernel
theorem test_pcPhasor : answer startedT .pcPhasor = [0x00022400#32, 0x3F800000#32, 0#32] := by
  decide +kernel
/-- 2.3, G1. -/
theorem test_piUpdate :
    let a := { startedT with kp := 0x3F000000#32, ki := 0x3F800000#32, integ := 0x40000000#32 }
    answer a (.piUpdate 0xBF800000#32) = [0x00013000#32, 0x3F000000#32] ∧
    (left a (.piUpdate 0xBF800000#32)).integ = 0x3F800000#32 := by decide +kernel
theorem test_interp :
    answer tapsT (.interp 0x3F000000#32) = [0x00024000#32, 0x40340000#32, 0xBF380000#32] ∧
    answer tapsT (.interp 0x3F7FFFFF#32) = [0x00024000#32, 0x407FFFFE#32, 0xB3E00000#32] ∧
    answer tapsT (.interp 0x80000000#32) = [0x00024000#32, 0x40000000#32, 0xBF800000#32] := by
  decide +kernel
theorem test_interp_refused :
    answer tapsT (.interp 0x3F800000#32) = [0x00004007#32] ∧
    answer tapsT (.interp 0xBF800000#32) = [0x00004007#32] ∧
    answer tapsT (.interp 0x7FC00000#32) = [0x00004007#32] := by decide +kernel
theorem test_agcTick :
    answer startedT (.agcTick 0x40400000#32 0x40800000#32)
      = [0x00025000#32, 0x3F550140#32, 0x3F8E00D5#32] ∧
    (left startedT (.agcTick 0x40400000#32 0x40800000#32)).agcP = 0x41500000#32 := by decide +kernel
theorem test_agcTick_special :
    answer { startedT with agcP := 1#32 } (.agcTick 0#32 0#32)
      = [0x00025000#32, 0x7FC00000#32, 0x7FC00000#32] ∧
    answer startedT (.agcTick 0x7F800000#32 0#32) = [0x00025000#32, 0x7FC00000#32, 0#32] := by
  decide +kernel
theorem test_ted : answer tapsT .ted = [0x00016000#32, 0xC1200000#32] ∧
    answer Arch.reset .ted = [0x00006003#32] := by decide +kernel
/-- P4, the seventh sample. -/
theorem test_ssTick_diverges :
    let i := Instr.ssTick 0x3F800000#32 0x3F800000#32
    answer divergingT4 i = [0x00007009#32] ∧ (left divergingT4 i).phase = 0x404E7F4A#32 ∧
    (left divergingT4 i).integ = 0x3FFB2A20#32 ∧ (left divergingT4 i).lifecycle = .fault ∧
    (left divergingT4 i).sampleCount = 7#64 ∧ (left divergingT4 i).gate = false ∧
    ((left divergingT4 i).ih.data[1]?) = some ⟨0xBEA7716B#32, 0x404D7DEA#32⟩ := by decide +kernel
/-- P1, the fourth sample: the second one is emitted, with the phase back at 0. -/
theorem test_ssTick_emits :
    let a := { startedT with
      raw := ⟨List.replicate 3 ⟨0x3F800000#32, 0#32⟩ ++ List.replicate 5 ⟨0#32, 0#32⟩, 3⟩
      phase := 0x40490FDB#32, gate := true }
    answer a (.ssTick 0x3F800000#32 0#32) = [0x00027010#32, 0x3F800000#32, 0#32] ∧
    (left a (.ssTick 0x3F800000#32 0#32)).phase = 0#32 := by decide +kernel
theorem test_corrTick :
    answer scanningT (.corrTick 1#16) = [0x00008020#32] ∧
    (left scanningT (.corrTick 1#16)).eh.data.take 4 = [0#32, 2#32, 1#32, 0#32] ∧
    answer startedT (.corrTick 1#16) = [0x00008000#32] ∧
    (left startedT (.corrTick 1#16)).eh.data.take 4 = [0#32, 1#32, 1#32, 2#32] := by decide +kernel
theorem test_corrReset :
    answer scanningT .corrReset = [0x00008100#32] ∧
    (left scanningT .corrReset).eh.data.take 5 = [1#32, 1#32, 1#32, 1#32, 0#32] := by decide +kernel
theorem test_pktTick_detects :
    answer scanningT (.pktTick 1#16) = [0x00009000#32] ∧
    (left scanningT (.pktTick 1#16)).pstate = .capturing ∧
    (left scanningT (.pktTick 1#16)).eh.data.take 4 = [1#32, 1#32, 1#32, 1#32] := by decide +kernel
theorem test_pktTick_emits :
    answer capturingT (.pktTick 0#16) = [0x00009040#32] ∧
    (left capturingT (.pktTick 0#16)).payload = 6#8192 ∧
    (left capturingT (.pktTick 0#16)).pktAvail = true ∧
    (left capturingT (.pktTick 0#16)).packetCount = 1#32 := by decide +kernel
theorem test_pktRdw :
    answer packetT (.pktRdw 0#16) = [0x00019100#32, 6#32] ∧
    answer packetT (.pktRdw 1#16) = [0x00009105#32] := by decide +kernel
theorem test_lfsrNext :
    answer { startedT with lfsr := 0x12#8 } .lfsrNext = [0x0000A000#32] ∧
    (left { startedT with lfsr := 0x12#8 } .lfsrNext).lfsr = 0x09#8 ∧
    answer startedT .lfsrNext = [0x0000A020#32] ∧ (left startedT .lfsrNext).lfsr = 0x7F#8 := by
  decide +kernel
theorem test_lfsrSeed :
    answer { startedT with lfsr := 0#8 } .lfsrSeed = [0x0000A100#32] ∧
    (left { startedT with lfsr := 0#8 } .lfsrSeed).lfsr = 0xFF#8 := by decide +kernel
theorem test_descramble :
    answer packetT .descramble = [0x0000A200#32] ∧ (left packetT .descramble).payload = 9#8192 ∧
    (left packetT .descramble).lfsr = 0x2F#8 := by decide +kernel
/-- P3, the thirty-second sample. -/
theorem test_rxTick :
    let i := Instr.rxTick 0xBF800000#32 0#32
    answer chainT i = [0x0002B050#32, 0xBF800000#32, 0#32] ∧ (left chainT i).payload = 9#8192 ∧
    (left chainT i).lfsr = 0x2F#8 ∧ (left chainT i).pktSampleIndex = 31#64 ∧
    (left chainT i).sampleCount = 32#64 ∧ (left chainT i).packetCount = 1#32 := by decide +kernel
theorem test_rxTick_refused :
    answer faultedT (.rxTick 0#32 0#32) = [0x0000B004#32] ∧
    answer Arch.reset (.rxTick 0#32 0#32) = [0x0000B003#32] := by decide +kernel

/-- The first step after reset runs the command presented: `csr_rd VERSION`, `csr_wr SPS, 0`. -/
theorem test_withFetchWord :
    (∃ t, step (State.reset.withFetchWord 32 0x00010003) = .next t ∧
      t.rspPort = [0x00010300#32, 0x00000007#32]) ∧
    (∃ t, step (State.reset.withFetchWord 32 0x00101004) = .next t ∧ t.rspPort = [0x00000400#32]) :=
  ⟨⟨_, rfl, rfl⟩, _, rfl, rfl⟩

/-! ## Arithmetic and the host's side -/

/-- 00 R13: FOUR_PI is twice TAU. -/
theorem test_fourPi : fadd 0x40C90FDB#32 0x40C90FDB#32 = 0x41490FDB#32 := by decide +kernel
/-- 2.3, G4: the intermediate values. -/
theorem test_gain_design :
    fmul 0x40800000#32 0x3F3504F3#32 = 0x403504F3#32 ∧
    fadd 0x3F3504F3#32 (fdiv 0x3F800000#32 0x403504F3#32) = 0x3F87C3B6#32 ∧
    fmul 0x3F87C3B6#32 0x3F87C3B6#32 = 0x3F8FFFFF#32 ∧
    fdiv 0x40800000#32 0x3F8FFFFF#32 = 0x40638E3A#32 ∧
    fmul 0x3D4CCCCD#32 0x3D4CCCCD#32 = 0x3B23D70B#32 ∧
    fmul 0x40638E3A#32 0x3B23D70B#32 = 0x3C11A2B5#32 := by decide +kernel
/-- 43 R181, R184: START's gains can be KI = 0 with KP not 0, and, with a subnormal KI, KP = 0 with KI not 0. -/
theorem test_gain_design_extremes :
    gainDesign 0x15F79688#32 0x3F000000#32 0x40000000#32 = (0x15F79688#32, 0x00000000#32) ∧
    gainDesign 0x45DB597B#32 0x232F8551#32 0x5ECB4826#32 = (0x00000000#32, 0x0000001C#32) := by
  decide +kernel
/-- 20 R66: least significant byte first. -/
theorem test_wordBytes : wordBytes 0x52524644#32 = [0x44#8, 0x46#8, 0x52#8, 0x52#8] ∧
    bytesWord 0x44#8 0x46#8 0x52#8 0x52#8 = 0x52524644#32 := by decide
/-- 30 R96, R97. -/
theorem test_hostSide :
    asmOf (.cbRds 0#4 0xFFF8#16) = ⟨"cb_rds", [.name "raw", .int (-8)]⟩ ∧
    asmOf (.csrWr 0x010#16 0x40800000#32) = ⟨"csr_wr", [.name "SPS", .word 0x40800000#32]⟩ ∧
    pseudoSync = [.nop] ∧ pseudoReadSampleCount = [.csrRd 0x036#16, .csrRd 0x037#16] ∧
    pseudoReadPktSampleIndex = [.csrRd 0x039#16, .csrRd 0x03A#16] ∧
    (pseudoPacketRead 33).length = 2 ∧
    pseudoConfigure [(.sps, 0x40800000#32)] = [.reset, .csrWr 0x010#16 0x40800000#32, .start] := by
  decide

/-! ## Witnesses: for each statement with hypotheses, a state and operands that meet them

A statement about every next state of `exec` has its witness in `reaches`: every command ends in one. -/

theorem startedT_inv : ArchInv startedT := ArchInv.construct (by decide +kernel)
theorem startedT4_inv : ArchInv confT4.deriveConstants.construct :=
  ArchInv.construct (by decide +kernel)
theorem faultedT_inv : ArchInv faultedT := startedT_inv.takeDivergence rfl
theorem inv_inState (a : Arch) (h : ArchInv a) : Inv (inState a) := ⟨h, .inl rfl⟩

/-- A command's next state, with what holds of the block and of the response in it. -/
theorem reaches (a : Arch) (i : Instr) (p : Arch → List Word → Prop)
    (h : p (left a i) (answer a i)) :
    ∃ t, exec i (inState a) = .next t ∧ p t.arch t.rspPort := by
  obtain ⟨t, ht⟩ := exec_next i (inState a)
  refine ⟨t, ht, ?_⟩
  simpa only [left, answer, ht] using h

theorem bufferedT_inv : ArchInv bufferedT := by
  have h := startedT_inv
  exact h.of_frame (by decide) rfl rfl rfl
    ⟨rfl, by decide, rfl, by decide, h.1.2.2.2.2⟩ h.2.2.2.2.2.1 h.2.2.2.2.2.2
theorem tapsT_inv : ArchInv tapsT := by
  have h := startedT_inv
  exact h.of_frame (by decide) rfl rfl rfl
    ⟨rfl, by decide, rfl, by decide, h.1.2.2.2.2⟩ h.2.2.2.2.2.1 h.2.2.2.2.2.2

theorem witness_DecodeEncodeRoundTrip :
    (Instr.pktTick 1#16).wellFormed = true ∧ (Instr.cbRds 15#4 0xFFFF#16).wellFormed = true := by decide
theorem witness_DecodeAcceptsOnlyEncodings :
    decode [0x000020B0#32, 0x3F800000#32, 0#32, 5#32]
      = .ok (.rxTick 0x3F800000#32 0#32, [5#32]) := by decide
theorem witness_DecodeFollowsMatchAndMask :
    ((0x000020B0#32 : Word).extractLsb' 12 2).toNat ≤ [0#32, 0#32].length ∧
    ((0x000030B0#32 : Word).extractLsb' 12 2).toNat ≤ [0#32, 0#32, 0#32].length := by decide

/-- CSR_WR waits for its data word after the header, and an illegal command of LEN 3 for its third. -/
theorem witness_IncompleteCommandsWait :
    (let s := atPort startedT [] [.word 0x00101004#32]
     s.cmdPort = [.word 0x00101004#32] ∧ s.taken ++ [0x00101004#32] = [0x00101004#32] ∧
     ([] : List Word).length < ((0x00101004#32 : Word).extractLsb' 12 2).toNat) ∧
    (let s := atPort startedT [0x000030C0#32, 1#32] [.word 2#32]
     s.cmdPort = [.word 2#32] ∧ s.taken ++ [2#32] = [0x000030C0#32, 1#32, 2#32] ∧
     [1#32, 2#32].length < ((0x000030C0#32 : Word).extractLsb' 12 2).toNat) := by
  refine ⟨⟨rfl, rfl, by decide⟩, rfl, rfl, by decide⟩
theorem witness_IllegalOpcodesAreRejected :
    (let s := atPort startedT [0x000030C0#32, 1#32, 2#32] [.word 3#32]
     s.cmdPort = [.word 3#32] ∧ s.taken ++ [3#32] = [0x000030C0#32, 1#32, 2#32, 3#32] ∧
     [1#32, 2#32, 3#32].length = ((0x000030C0#32 : Word).extractLsb' 12 2).toNat ∧
     ∀ r ∈ commandTable, r.1 ≠ (0x000030C0#32 : Word).extractLsb' 0 8) := by
  refine ⟨rfl, rfl, by decide, by decide⟩
/-- 2.12: each kind of violation, with the row of the command's OPC. -/
theorem witness_ReservedFieldsAreRejected :
    (0x00, 0, false, .zero) ∈ commandTable ∧ (0x80, 0, false, .bit) ∈ commandTable ∧
    (0x00004000#32 : Word).extractLsb' 14 2 ≠ 0#2 ∧
    ((0x00001000#32 : Word).extractLsb' 12 2).toNat ≠ 0 ∧
    (0x00000100#32 : Word).extractLsb' 8 4 ≠ 0#4 ∧ (0x00010000#32 : Word).extractLsb' 16 16 ≠ 0#16 ∧
    (0x00020080#32 : Word).extractLsb' 17 15 ≠ 0#15 ∧
    (let s := atPort startedT [0x00001000#32] [.word 7#32]
     s.cmdPort = [.word 7#32] ∧ s.taken ++ [7#32] = [0x00001000#32, 7#32] ∧
     [7#32].length = ((0x00001000#32 : Word).extractLsb' 12 2).toNat) := by
  refine ⟨by decide, by decide, by decide, by decide, by decide, by decide, by decide, rfl, rfl,
    by decide⟩
theorem witness_StepRunsDecodedCommand :
    (let s := atPort startedT [0x00101004#32] [.word 0x40800000#32, .rspReady]
     s.cmdPort = [.word 0x40800000#32, .rspReady] ∧
     decode (s.taken ++ [0x40800000#32]) = .ok (.csrWr 0x010#16 0x40800000#32, [])) :=
  ⟨rfl, by decide⟩
/-- In the middle of a command of LEN 3, and at a boundary. -/
theorem witness_ThreeZeroWordsResynchronise :
    (atPort startedT [0x000030C0#32] [.word 0#32, .word 0#32, .word 0#32]).cmdPort
      = [.word 0#32, .word 0#32, .word 0#32] ∧
    (atPort startedT [] [.word 0#32, .word 0#32, .word 0#32]).cmdPort
      = [.word 0#32, .word 0#32, .word 0#32] := ⟨rfl, rfl⟩
theorem witness_ResponsesLeaveInOrder :
    ({ inState startedT with cmdPort := [.rspReady], rspPort := [1#32, 2#32] } : State).cmdPort
      = [.rspReady] ∧ (inState startedT).cmdPort = [] := ⟨rfl, rfl⟩
theorem witness_PinResetFromEveryState :
    (atPort faultedT [0x00101004#32] [.rstN]).cmdPort = [.rstN] := rfl

theorem witness_ResetValues :
    (∃ t, exec .reset (inState startedT) = .next t) ∧
    (atPort startedT [] [.rstN]).cmdPort = [.rstN] ∧ ∃ t, step (atPort startedT [] [.rstN]) = .next t :=
  ⟨⟨_, rfl⟩, rfl, _, rfl⟩
theorem witness_ResetCommandResetsEverything :
    faultedT.lifecycle = .fault ∧
    ∃ t, exec .reset (inState faultedT) = .next t ∧ t.arch.lifecycle ≠ .fault :=
  ⟨rfl, _, rfl, by decide⟩

theorem witness_StepKeepsInvariant :
    (Inv (inState startedT) ∧ ∃ t, step (inState startedT) = .next t) ∧
    Inv (atPort startedT [] [.word 0x00000020#32]) :=
  ⟨⟨inv_inState _ startedT_inv, _, rfl⟩, startedT_inv, .inl rfl⟩
/-- The counts right after START, below the bound for every age. -/
theorem witness_StepKeepsCountsBounded :
    Inv (inState startedT) ∧ CountsBounded startedT ∧ ∃ t, step (inState startedT) = .next t := by
  refine ⟨inv_inState _ startedT_inv, fun _ => ?_, _, rfl⟩
  show ∀ i, i < 4 → _
  decide +kernel

/-- Each kind of port event, and each row of the table for a command. -/
theorem witness_LifecycleMovesByTheTable :
    (atPort faultedT [] [.rstN]).cmdPort = [.rstN] ∧
    (atPort faultedT [] [.rspReady]).cmdPort = [.rspReady] ∧
    decode ((atPort startedT [] [.word 0xFF#32]).taken ++ [0xFF#32]) = .error .illegalOpcode ∧
    (∃ t, exec .start (inState confT) = .next t ∧ t.arch.lifecycle = .run) ∧
    (∃ t, exec .start (inState Arch.reset) = .next t ∧ t.arch.lifecycle = .config) ∧
    (∃ t, exec .pcTick (inState startedT) = .next t ∧ t.arch.lifecycle = .run) ∧
    (∃ t, exec (.ssTick 0x3F800000#32 0x3F800000#32) (inState divergingT4) = .next t ∧
      t.arch.lifecycle = .fault) ∧
    (∃ t, exec .ted (inState faultedT) = .next t ∧ t.arch.lifecycle = .fault) ∧
    (∃ t, exec .reset (inState faultedT) = .next t ∧ t.arch.lifecycle = .config) := by
  refine ⟨rfl, rfl, by decide, ?_, ?_, ?_, ?_, ?_, ?_⟩
  all_goals exact reaches _ _ (fun a _ => a.lifecycle = _) (by decide +kernel)
/-- A rejected command, and an accepted one that answers BAD_STATE. -/
theorem witness_ErrorsChangeNoState :
    (let s := atPort startedT [] [.word 0xFF#32]
     decode (s.taken ++ [0xFF#32]) ≠ .error .truncated ∧ ∃ t, step s = .next t) ∧
    (let s := atPort startedT [] [.word 2#32]
     decode (s.taken ++ [2#32]) ≠ .error .truncated ∧ ∃ t, step s = .next t) := by
  refine ⟨⟨by decide, _, rfl⟩, by decide, ?_⟩
  exact exec_next .start _
theorem witness_ResponsesHaveTheirShape :
    ∃ t, exec .pcPhasor (inState startedT) = .next t ∧
      t.rspPort = [0x00022400#32, 0x3F800000#32, 0#32] :=
  reaches _ _ (fun _ ws => ws = _) (by decide +kernel)
/-- One command for each condition of the order, and its code. -/
theorem witness_ResultCodeFollowsPrecedence :
    (∃ t, exec (.csrWr 0x002#16 1#32) (inState startedT) = .next t ∧ t.rspPort = [0x00000406#32]) ∧
    (∃ t, exec .pcTick (inState faultedT) = .next t ∧ t.rspPort = [0x00002004#32]) ∧
    (∃ t, exec (.cbRds 3#4 0#16) (inState Arch.reset) = .next t ∧ t.rspPort = [0x00001003#32]) ∧
    (∃ t, exec (.cbRds 3#4 8#16) (inState startedT) = .next t ∧ t.rspPort = [0x00001007#32]) ∧
    (∃ t, exec (.cbRds 0#4 8#16) (inState startedT) = .next t ∧ t.rspPort = [0x00001005#32]) ∧
    (∃ t, exec .start (inState Arch.reset) = .next t ∧ t.rspPort = [0x00000208#32]) ∧
    (∃ t, exec (.ssTick 0x3F800000#32 0x3F800000#32) (inState divergingT4) = .next t ∧
      t.rspPort = [0x00007009#32]) ∧
    (∃ t, exec .nop (inState startedT) = .next t ∧ t.rspPort = [0x00000000#32]) := by
  refine ⟨?_, ?_, ?_, ?_, ?_, ?_, ?_, ?_⟩
  all_goals exact reaches _ _ (fun _ ws => ws = _) (by decide +kernel)
/-- FAULT, with a command of each kind the statement names. -/
theorem witness_FaultFreezesTheState :
    (inState faultedT).arch.lifecycle = .fault ∧ mutates .pcTick = true ∧ inspects .ted = true ∧
    0x010#16 ∈ configNumbers ∧ (0x002#16, 0x00000902#32) ∈ registerMap faultedT ∧
    Instr.ted ≠ .reset ∧ Instr.pcTick ≠ .reset ∧ Instr.nop ≠ .reset ∧ Instr.start ≠ .reset := by
  decide +kernel
theorem witness_ReadsHaveNoSideEffect :
    inspects (.interp 0x3F000000#32) = true ∧ (∃ n, Instr.csrRd 0x030#16 = .csrRd n) :=
  ⟨rfl, _, rfl⟩
theorem witness_ConfigurationIsHeld :
    (∃ t, exec .pcTick (inState startedT) = .next t ∧ startedT.lifecycle ≠ .config) ∧
    (∃ t, exec .start (inState confT) = .next t ∧ t.arch.rate = 0x40490FDB#32) ∧
    (∃ t, exec (.csrWr 0x014#16 4#32) (inState Arch.reset) = .next t ∧ t.arch.syncLen = 4#32) := by
  refine ⟨?_, ?_, ?_⟩
  · exact reaches _ _ (fun _ _ => startedT.lifecycle ≠ .config) (by decide +kernel)
  · exact reaches _ _ (fun a _ => a.rate = _) (by decide +kernel)
  · exact reaches _ _ (fun a _ => a.syncLen = _) (by decide +kernel)
/-- Each clause: the counters cleared, a sample counted, a packet counted, its index latched. -/
theorem witness_CountersCount :
    (∃ t, exec .start (inState confT) = .next t ∧ t.rspPort = [0x00000200#32]) ∧
    (∃ t, exec (.ssTick 0#32 0#32) (inState startedT) = .next t ∧ t.arch.sampleCount = 1#64) ∧
    (∃ t, exec (.pktTick 0#16) (inState capturingT) = .next t ∧ t.rspPort = [0x00009040#32]) ∧
    (∃ t, exec (.rxTick 0xBF800000#32 0#32) (inState chainT) = .next t ∧
      t.arch.pktSampleIndex = 31#64) := by
  refine ⟨?_, ?_, ?_, ?_⟩
  · exact reaches _ _ (fun _ ws => ws = _) (by decide +kernel)
  · exact reaches _ _ (fun a _ => a.sampleCount = _) (by decide +kernel)
  · exact reaches _ _ (fun _ ws => ws = _) (by decide +kernel)
  · exact reaches _ _ (fun a _ => a.pktSampleIndex = _) (by decide +kernel)

/-- CONFIG with a legal configuration, with each bound met exactly, and with illegal ones. -/
theorem witness_StartValidatesAndConstructs :
    confT.lifecycle = .config ∧ startedT.lifecycle ≠ .config ∧ startLegal confT = true ∧
    startLegal { confT with sps := 0x40000000#32, syncLen := 1#32, pktLen := 1#32 } = true ∧
    startLegal { confT with syncLen := 64#32, threshold := 65535#32, pktLen := 8192#32 } = true ∧
    startLegal { confT with syncLen := 0#32 } = false ∧
    startLegal { confT with pktLen := 8193#32 } = false := by decide +kernel
theorem witness_CsrReadsTheRegisterMap :
    (0x03A#16, 0#32) ∈ registerMap startedT ∧ ∀ p ∈ registerMap startedT, p.1 ≠ 0x03B#16 := by
  refine ⟨by decide +kernel, ?_⟩
  simp [registerMap]
theorem witness_CsrWritesTheConfiguration :
    confT.lifecycle = .config ∧ startedT.lifecycle ≠ .config ∧ 0x01A#16 ∈ configNumbers ∧
    0x01B#16 ∉ configNumbers ∧ 0x00F#16 ∉ configNumbers := by decide
/-- Offsets at both ends of each range and just outside it. -/
theorem witness_CbRdsReadsSignedOffsets :
    confT.lifecycle = .config ∧ bufferedT.lifecycle ≠ .config ∧ ArchInv bufferedT ∧
    3 ≤ (3#4).toNat ∧ bufferedT.syncN = 4 ∧
    (-8 ≤ (0xFFF8#16).toInt ∧ (0xFFF8#16).toInt < 8) ∧ (-8 ≤ (7#16).toInt ∧ (7#16).toInt < 8) ∧
    ¬(-8 ≤ (0xFFF7#16).toInt ∧ (0xFFF7#16).toInt < 8) ∧ ¬(-8 ≤ (8#16).toInt ∧ (8#16).toInt < 8) ∧
    (-3 ≤ (0xFFFD#16).toInt ∧ (0xFFFD#16).toInt < 3) ∧ ¬(-3 ≤ (3#16).toInt ∧ (3#16).toInt < 3) ∧
    (-4 ≤ (0xFFFC#16).toInt ∧ (0xFFFC#16).toInt < 4) ∧ ¬(-4 ≤ (4#16).toInt ∧ (4#16).toInt < 4) := by
  refine ⟨rfl, by decide, bufferedT_inv, by decide, rfl, ?_⟩
  decide
theorem witness_CbRduReadsUnsignedOffsets :
    confT.lifecycle = .config ∧ bufferedT.lifecycle ≠ .config ∧ ArchInv bufferedT ∧
    3 ≤ (15#4).toNat ∧ bufferedT.syncN = 4 ∧ (8#16).toNat ≤ 8 ∧ 8 < (9#16).toNat ∧
    (3#16).toNat ≤ 3 ∧ 3 < (4#16).toNat ∧ (4#16).toNat ≤ 4 ∧ 4 < (5#16).toNat := by
  refine ⟨rfl, by decide, bufferedT_inv, by decide, rfl, ?_⟩
  decide
/-- A buffer of one slot, and one of two after more pushes than it holds. -/
theorem witness_BufferKeepsTheLastPushes :
    (0 < 1 ∧ [0#32].length = 1 ∧ 1 ≤ [7#32].length) ∧
    (0 < 2 ∧ [0#32, 0#32].length = 2 ∧ 2 ≤ [7#32, 8#32, 9#32].length) := by decide
/-- One slot; three slots with the cursor at the last, and offsets at both ends. -/
theorem witness_BufferOffsetsAgree :
    (let b : CBuf Word := ⟨[0#32], 0⟩
     0 < 1 ∧ b.data.length = 1 ∧ b.cur < 1) ∧
    (let b : CBuf Word := ⟨[0#32, 0#32, 0#32], 2⟩
     0 < 3 ∧ b.data.length = 3 ∧ b.cur < 3 ∧ b.cur + 1 = 3) ∧
    -(3 : Int) ≤ -3 ∧ (2 : Int) < 3 ∧ 3 ≤ 3 ∧ 1 ≤ 2 ∧ 2 < 3 := by decide

/-- A sum of exactly TAU, one below it, and the other two states. -/
theorem witness_PcTickAdvancesByRate :
    startedT.lifecycle = .run ∧ confT.lifecycle = .config ∧ faultedT.lifecycle = .fault ∧
    fge (fadd 0x40490FDB#32 startedT.rate) 0x40C90FDB#32 = true ∧
    fge (fadd startedT.phase startedT.rate) 0x40C90FDB#32 = false := by decide +kernel
/-- Both ends, a NaN operand, a NaN phase, a sum of exactly TAU. -/
theorem witness_PcAdvAdvancesByDelta :
    startedT.lifecycle = .run ∧ confT.lifecycle = .config ∧ faultedT.lifecycle = .fault ∧
    fge (fadd startedT.phase 0x41A00000#32) 0x40C90FDB#32 = true ∧
    fge (fadd startedT.phase 0x40C90FDA#32) 0x40C90FDB#32 = false ∧
    fisNaN 0x7FC00000#32 = true ∧ fisNaN 0x7F800001#32 = true ∧
    fadd startedT.phase 0x40C90FDB#32 = 0x40C90FDB#32 := by decide +kernel
theorem witness_SineCosineAndPhasor :
    startedT.lifecycle ≠ .config ∧ faultedT.lifecycle ≠ .config ∧ confT.lifecycle = .config ∧
    finite 0x7F800000#32 = false ∧ finite 0x7FC00000#32 = false := by decide +kernel
/-- RATE = TAU, the upper bound (SPS = 2.0), and an overrun. -/
theorem witness_TickStaysBelowTau :
    (let a := { confT4.deriveConstants.construct with phase := 0x3F800000#32 }
     a.lifecycle = .run ∧ flt a.phase 0x40C90FDB#32 = true ∧ fgt a.rate 0x00000000#32 = true ∧
     fge 0x40C90FDB#32 a.rate = true ∧ answer a .pcTick = [0x00012010#32, (left a .pcTick).phase]) ∧
    ∃ t, exec .pcTick (inState { confT4.deriveConstants.construct with phase := 0x3F800000#32 })
      = .next t := by
  refine ⟨by decide +kernel, exec_next _ _⟩
theorem witness_RateIsInRange :
    confT4.lifecycle = .config ∧ startLegal confT4 = true ∧ confT4.sps = 0x40000000#32 ∧
    ∃ t, exec .start (inState confT4) = .next t := by
  refine ⟨rfl, by decide +kernel, rfl, exec_next _ _⟩

theorem witness_PiUpdateFilters :
    startedT.lifecycle = .run ∧ confT.lifecycle = .config ∧ faultedT.lifecycle = .fault := by decide
/-- Errors 2.0, -1.0 and 0.25 with KI = 1.0, whose products and sums are exact, and an infinite error. -/
theorem witness_PiWithOneGainZero :
    (startedT.lifecycle = .run ∧ fisZero startedT.ki = true ∧ startedT.integ = 0#32 ∧
      finite 0xC0400000#32 = true) ∧
    (let a := { startedT with ki := 0x3F800000#32 }
     a.lifecycle = .run ∧ fisZero a.kp = true ∧ a.integ = 0#32 ∧
     fisInf 0x3E800000#32 = false ∧ fisInf 0xFF800000#32 = true) ∧
    (let e := [0x40000000#32, 0xBF800000#32, 0x3E800000#32]
     let sum := fun k => (e.take k).foldl (fun sum x => fadd sum (fmul 0x3F800000#32 x)) 0#32
     finite (sum 3) = true ∧ ∀ i, i < 3 →
       fvalue (fmul 0x3F800000#32 (e.getD i 0#32)) * 2 ^ 149
         = fvalue 0x3F800000#32 * fvalue (e.getD i 0#32) ∧
       fvalue (sum (i + 1)) = fvalue (sum i) + fvalue (fmul 0x3F800000#32 (e.getD i 0#32))) := by
  decide +kernel
/-- Both ends of [0, 1), -0.0 with them, and the first value outside on each side. -/
theorem witness_InterpWeighsTheNewestSamples :
    tapsT.lifecycle ≠ .config ∧ ArchInv tapsT ∧ confT.lifecycle = .config ∧
    (fge 0x00000000#32 0x00000000#32 = true ∧ flt 0x00000000#32 0x3F800000#32 = true) ∧
    (fge 0x80000000#32 0x00000000#32 = true ∧ flt 0x80000000#32 0x3F800000#32 = true) ∧
    (fge 0x3F7FFFFF#32 0x00000000#32 = true ∧ flt 0x3F7FFFFF#32 0x3F800000#32 = true) ∧
    ¬(fge 0x3F800000#32 0x00000000#32 = true ∧ flt 0x3F800000#32 0x3F800000#32 = true) ∧
    ¬(fge 0x80000001#32 0x00000000#32 = true ∧ flt 0x80000001#32 0x3F800000#32 = true) := by
  refine ⟨by decide, tapsT_inv, rfl, ?_⟩
  decide +kernel
theorem witness_AgcTickNormalizes :
    startedT.lifecycle = .run ∧ confT.lifecycle = .config ∧ faultedT.lifecycle = .fault := by decide
theorem witness_TedEstimatesTheTimingError :
    tapsT.lifecycle ≠ .config ∧ ArchInv tapsT ∧ confT.lifecycle = .config :=
  ⟨by decide, tapsT_inv, rfl⟩
/-- No overrun; an overrun and no divergence; a divergence. -/
theorem witness_SsTickSteps :
    (startedT.lifecycle = .run ∧ fge (fadd startedT.phase startedT.rate) 0x40C90FDB#32 = false) ∧
    (let a := { startedT with phase := 0x40490FDB#32 }
     let v := fsub (fadd a.phase a.rate) 0x40C90FDB#32
     a.lifecycle = .run ∧ fge (fadd a.phase a.rate) 0x40C90FDB#32 = true ∧
     answer a (.ssTick 0#32 0#32) = [0x00027000#32, 0#32, 0#32] ∧ v = 0#32) ∧
    (let a := divergingT4
     a.lifecycle = .run ∧ fge (fadd a.phase a.rate) 0x40C90FDB#32 = true ∧
     answer a (.ssTick 0x3F800000#32 0x3F800000#32) = [0x00007009#32]) ∧
    confT.lifecycle = .config ∧ faultedT.lifecycle = .fault := by decide +kernel

theorem witness_CorrTickCountsMismatches :
    (2#16 : BitVec 16).extractLsb' 1 15 ≠ 0#15 ∧ (0x8000#16 : BitVec 16).extractLsb' 1 15 ≠ 0#15 ∧
    startedT.lifecycle = .run ∧ ArchInv startedT ∧ confT.lifecycle = .config ∧
    faultedT.lifecycle = .fault := ⟨by decide, by decide, rfl, startedT_inv, rfl, rfl⟩
theorem witness_CorrResetForgetsEveryHypothesis :
    startedT.lifecycle = .run ∧ ArchInv startedT ∧ confT.lifecycle = .config ∧
    faultedT.lifecycle = .fault := ⟨rfl, startedT_inv, rfl, rfl⟩
theorem witness_CorrelatorCountsTheHammingDistance :
    (inState startedT).arch.lifecycle = .run ∧ ArchInv (inState startedT).arch ∧
    startedT.syncN ≤ [true, false, true, true].length := ⟨rfl, startedT_inv, by decide⟩
theorem capturingT_inv : ArchInv { startedT with pstate := .capturing, capidx := 3 } := by
  have h := startedT_inv
  refine h.of_frame (by decide) rfl rfl rfl h.1 h.2.2.2.2.2.1 ⟨nofun, nofun, fun _ => ?_⟩
  exact ⟨by decide, (h.2.2.2.2.2.2.2.2 (by decide)).2⟩
/-- Scanning; capturing the last symbol (3 + 1 = 4), and one before it. -/
theorem witness_PktTickScansAndCaptures :
    (startedT.lifecycle = .run ∧ ArchInv startedT ∧ startedT.pstate = .scanning) ∧
    (let a := { startedT with pstate := .capturing, capidx := 3 }
     a.lifecycle = .run ∧ ArchInv a ∧ a.pstate = .capturing ∧ a.capidx + 1 = a.pktL) ∧
    (2 + 1 < startedT.pktL) ∧ confT.lifecycle = .config ∧ faultedT.lifecycle = .fault :=
  ⟨⟨rfl, startedT_inv, rfl⟩, ⟨rfl, capturingT_inv, rfl, rfl⟩, by decide, rfl, rfl⟩
theorem witness_PacketizerEndToEnd :
    (inState confT).arch.lifecycle = .config ∧ startLegal (inState confT).arch = true ∧
    (inState confT).arch.threshold = 0#32 ∧ [false, true, true, false].length = confT.pktL ∧
    (List.replicate 7 true).length < confT.syncN + confT.pktL := by decide +kernel
/-- L = 4 is one word: 0 is the last index in range, 1 the first outside. -/
theorem witness_PktRdwReadsThePayload :
    packetT.lifecycle ≠ .config ∧ (0#16).toNat < (packetT.pktL + 31) / 32 ∧
    (packetT.pktL + 31) / 32 ≤ (1#16).toNat ∧ confT.lifecycle = .config := by decide

theorem witness_DescramblerStepsAndRestarts :
    startedT.lifecycle = .run ∧ confT.lifecycle = .config ∧ faultedT.lifecycle = .fault ∧
    ({ startedT with lfsr := 0#8 } : Arch).lfsr = 0#8 := by decide
theorem witness_DescrambleXorsTheSeedStream :
    packetT.lifecycle = .run ∧ confT.lifecycle = .config ∧ faultedT.lifecycle = .fault := by decide
theorem witness_DescramblingIgnoresTheOldLfsr :
    packetT.lifecycle = .run ∧
    (∃ t, exec (.rxTick 0xBF800000#32 0#32) (inState chainT) = .next t) ∧
    (∃ t, exec (.rxTick 0xBF800000#32 0#32)
      ((inState chainT).withArch { chainT with lfsr := 0#8 }) = .next t) :=
  ⟨rfl, exec_next _ _, exec_next _ _⟩
/-- RUN, with a sample that emits a packet, one that emits nothing, and one that diverges. -/
theorem witness_RxTickRunsTheChain :
    chainT.lifecycle = .run ∧ answer chainT (.rxTick 0xBF800000#32 0#32)
      = [0x0002B050#32, 0xBF800000#32, 0#32] ∧
    answer startedT (.rxTick 0x3F800000#32 0#32) = [0x0002B000#32, 0#32, 0#32] ∧
    startedT.lifecycle = .run ∧ fge (fadd startedT.phase startedT.rate) 0x40C90FDB#32 = false ∧
    answer divergingT4 (.rxTick 0x3F800000#32 0x3F800000#32) = [0x0000B009#32] ∧
    confT.lifecycle = .config ∧ faultedT.lifecycle = .fault := by decide +kernel

/-- A finite sum, one that overflows, an exact zero of each sign. -/
theorem witness_AddRoundsToNearestEven :
    finite 0x3F800000#32 = true ∧ finite (fadd 0x3F800000#32 0x33800000#32) = true ∧
    finite 0x7F7FFFFF#32 = true ∧ finite (fadd 0x7F7FFFFF#32 0x7F7FFFFF#32) = false ∧
    fvalue 0x3F800000#32 + fvalue 0xBF800000#32 = 0 ∧ fvalue 0x80000000#32 + fvalue 0x80000000#32 = 0 ∧
    fsign 0x80000000#32 = true := by decide +kernel
/-- Finite results and overflows of both; a non-zero divisor. -/
theorem witness_MulAndDivRoundToNearestEven :
    finite 0x40400000#32 = true ∧ finite (fmul 0x40400000#32 0x3F800001#32) = true ∧
    finite 0x7F7FFFFF#32 = true ∧ finite (fmul 0x7F7FFFFF#32 0x40000000#32) = false ∧
    fvalue 0x40400000#32 ≠ 0 ∧ finite (fdiv 0x3F800000#32 0x40400000#32) = true ∧
    finite 0x00000001#32 = true ∧ finite (fdiv 0x3F800000#32 0x00000001#32) = false := by decide +kernel
/-- The smallest and the largest operand. -/
theorem witness_SqrtRoundsToNearest :
    finite 0x00000001#32 = true ∧ 0 < fvalue 0x00000001#32 ∧ finite 0x7F7FFFFF#32 = true ∧
    0 < fvalue 0x7F7FFFFF#32 ∧ 0 ≤ fvalue 0x00000000#32 := by decide +kernel
theorem witness_ComparisonsOrderByValue :
    finite 0x00000000#32 = true ∧ finite 0x80000000#32 = true ∧ fisNaN 0x7F800001#32 = true ∧
    fisNaN 0xFFC00000#32 = true := by decide +kernel
/-- A NaN result of each operation, and one operand of every kind the clauses name. -/
theorem witness_NonFiniteResults :
    fisNaN (fadd 0x7F800000#32 0xFF800000#32) = true ∧ fisNaN (fsub 0x7F800000#32 0x7F800000#32) = true ∧
    fisNaN (fmul 0x7F800000#32 0x00000000#32) = true ∧ fisNaN (fdiv 0x00000000#32 0x80000000#32) = true ∧
    fisNaN (fsqrt 0xBF800000#32) = true ∧ fisNaN 0x7FC00000#32 = true ∧ fisInf 0xFF800000#32 = true ∧
    finite 0x80000000#32 = true ∧ fisZero 0x80000000#32 = true ∧ fisNaN 0xBF800000#32 = false ∧
    fisZero 0xBF800000#32 = false ∧ fsign 0xBF800000#32 = true := by decide +kernel

end Sys2Proof.Tests
end

