-- ==== Sys2Proof/Proofs/Rounding.lean ====
section
/-! What one rounding of the arithmetic gives (00 R10): the packed result is the value nearest to the exact
one, ties to the even last bit, and overflows exactly from the bound on. Then sums, products and quotients
as one rounding each. -/

namespace Sys2Proof.Machine

/-! ## Exact values with a sign -/

/-- The integer of a sign and a magnitude. -/
def signed (neg : Bool) (n : Nat) : Int := if neg = true then -(n : Int) else n

theorem fvalue_eq_signed (x : Word) : fvalue x = signed (fsign x) (funits x) := rfl

theorem natAbs_signed (neg : Bool) (n : Nat) : (signed neg n).natAbs = n := by
  cases neg <;> simp [signed]

theorem natAbs_fvalue (x : Word) : (fvalue x).natAbs = funits x := natAbs_signed _ _

theorem signed_mul_signed (a b : Bool) (m n : Nat) :
    signed a m * signed b n = signed (a != b) (m * n) := by
  cases a <;> cases b <;> simp [signed]

theorem signed_mul_natCast (a : Bool) (m d : Nat) : signed a m * (d : Int) = signed a (m * d) := by
  cases a <;> simp [signed]

theorem signed_not (a : Bool) (n : Nat) : signed (!a) n = -signed a n := by
  cases a <;> simp [signed]

theorem signed_natAbs (v : Int) : signed (decide (v < 0)) v.natAbs = v := by
  simp only [signed, decide_eq_true_eq]
  split <;> omega

/-! ## Patterns and the values they stand for -/

theorem finite_iff (x : Word) : finite x = true ↔ fmag x < infMag := by simp [finite]

theorem funits_fpack (neg : Bool) {m : Nat} (h : m < 2 ^ 31) : funits (fpack neg m) = magUnits m := by
  rw [funits, fmag_fpack neg h]

theorem magUnits_lt_iff {m m' : Nat} (h : m < infMag) (h' : m' < infMag) :
    magUnits m < magUnits m' ↔ m < m' := by
  refine ⟨fun hlt => ?_, fun hlt => magUnits_lt hlt h'⟩
  by_contra hc
  rcases Nat.eq_or_lt_of_le (Nat.le_of_not_lt hc) with heq | hgt
  · rw [heq] at hlt; omega
  · have := magUnits_lt hgt h; omega

theorem magUnits_eq_zero_iff {m : Nat} (h : m < infMag) : magUnits m = 0 ↔ m = 0 := by
  have := magUnits_lt_iff (m := 0) (by decide) h
  rw [magUnits_zero] at this
  omega

/-- The last bit of a pattern is that of its magnitude. -/
theorem getLsbD_zero_fpack (neg : Bool) {m : Nat} (h : m < 2 ^ 31) :
    (fpack neg m).getLsbD 0 = decide (m % 2 = 1) := by
  rw [BitVec.getLsbD, fpack_toNat neg h, Nat.testBit_zero]
  cases neg
  · rfl
  · simp only [if_true, decide_eq_decide]; omega

theorem fpack_infMag (neg : Bool) :
    fpack neg infMag = if neg = true then 0xFF800000#32 else 0x7F800000#32 := by
  cases neg <;> rfl

theorem fpack_zero (neg : Bool) :
    fpack neg 0 = if neg = true then 0x80000000#32 else 0x00000000#32 := by
  cases neg <;> rfl

/-! ## One rounding -/

theorem roundMag_lt (num den : Nat) : roundMag num den < 2 ^ 31 :=
  lt_of_le_of_lt (roundMag_le num den) infMag_lt

/-- No pattern is nearer to a fraction than its rounding, and one equally near stands for the same
magnitude or loses to an even one. -/
theorem roundMag_dist_le {n d m : Nat} (hd : 0 < d) (hr : roundMag n d < infMag) (hm : m < infMag) :
    ((magUnits (roundMag n d) * d : Nat) - (n : Int)).natAbs ≤ ((magUnits m * d : Nat) - (n : Int)).natAbs ∧
    (((magUnits (roundMag n d) * d : Nat) - (n : Int)).natAbs = ((magUnits m * d : Nat) - (n : Int)).natAbs →
      magUnits m = magUnits (roundMag n d) ∨ roundMag n d % 2 = 0) := by
  obtain ⟨above, below⟩ := roundMag_nearest (num := n) hd hm
  rw [Nat.add_mul] at above below
  rcases Nat.lt_trichotomy (roundMag n d) m with h | h | h
  · have hlt := Nat.mul_lt_mul_of_pos_right (magUnits_lt h hm) hd
    obtain ⟨hle, heven⟩ := above h
    exact ⟨by omega, fun _ => .inr (heven (by omega))⟩
  · rw [h]; exact ⟨le_rfl, fun _ => .inl rfl⟩
  · have hlt := Nat.mul_lt_mul_of_pos_right (magUnits_lt h hr) hd
    obtain ⟨hle, heven⟩ := below h
    exact ⟨by omega, fun _ => .inr (heven (by omega))⟩

/-- 00 R10: `r` is the value nearest to `exact / scale` units, ties to the even last bit. -/
def IsNearestEven (r : Word) (scale exact : Int) : Prop :=
  ∀ z : Word, finite z = true →
    (fvalue r * scale - exact).natAbs ≤ (fvalue z * scale - exact).natAbs ∧
    ((fvalue r * scale - exact).natAbs = (fvalue z * scale - exact).natAbs →
      fvalue z = fvalue r ∨ r.getLsbD 0 = false)

theorem isNearestEven_neg {r : Word} {scale exact : Int} (h : IsNearestEven r scale exact) :
    IsNearestEven r (-scale) (-exact) := by
  intro z hz
  have flip : ∀ w : Word, (fvalue w * -scale - -exact).natAbs = (fvalue w * scale - exact).natAbs := by
    intro w
    rw [← Int.natAbs_neg]
    congr 1
    ring
  rw [flip, flip]
  exact h z hz

/-- Among values of the sign of the exact one the distances are those of the magnitudes; a value of the other
sign is no nearer than zero is. -/
theorem isNearestEven_fpack {neg : Bool} {n d : Nat} (hd : 0 < d)
    (hfin : finite (fpack neg (roundMag n d)) = true) :
    IsNearestEven (fpack neg (roundMag n d)) d (signed neg n) := by
  have hlt := roundMag_lt n d
  have hr : roundMag n d < infMag := by simpa [finite_iff, fmag_fpack neg hlt] using hfin
  intro z hz
  obtain ⟨hle, htie⟩ := roundMag_dist_le hd hr ((finite_iff z).mp hz)
  obtain ⟨hle0, htie0⟩ := roundMag_dist_le hd hr (m := 0) (by decide)
  rw [magUnits_zero, Nat.zero_mul] at hle0 htie0
  rw [fvalue_eq_signed z, fvalue_eq_signed (fpack _ _), fsign_fpack neg hlt, funits_fpack neg hlt,
    signed_mul_natCast, signed_mul_natCast, getLsbD_zero_fpack neg hlt, decide_eq_false_iff_not,
    show funits z = magUnits (fmag z) from rfl]
  have hzero : magUnits (fmag z) * d = 0 → magUnits (fmag z) = 0 := fun h =>
    (Nat.mul_eq_zero.mp h).resolve_right (by omega)
  generalize magUnits (fmag z) = Z at *
  generalize magUnits (roundMag n d) = R at *
  generalize R * d = a at *
  generalize Z * d = b at *
  by_cases hs : fsign z = neg
  · rw [hs]
    cases neg <;> simp only [signed, Bool.false_eq_true, if_true, if_false] <;> omega
  · rw [Bool.eq_not.mpr hs]
    cases neg <;>
      simp only [signed, Bool.false_eq_true, Bool.not_false, Bool.not_true, if_true, if_false] <;> omega

/-- A rounding is finite exactly below the bound: the largest finite value and half of its last place. -/
theorem finite_fpack_roundMag_iff (neg : Bool) {n d : Nat} (hd : 0 < d) :
    finite (fpack neg (roundMag n d)) = true ↔ n < (2 ^ 25 - 1) * 2 ^ 252 * d := by
  have hbound := roundMag_eq_infMag_iff (num := n) hd
  have hle := roundMag_le n d
  rw [finite_iff, fmag_fpack neg (roundMag_lt n d)]
  omega

/-- A rounding that is not finite is the infinity of its sign. -/
theorem fpack_roundMag_of_not_finite {neg : Bool} {n d : Nat}
    (h : finite (fpack neg (roundMag n d)) = false) :
    fpack neg (roundMag n d) = if neg = true then 0xFF800000#32 else 0x7F800000#32 := by
  rw [finite_fpack neg (roundMag_lt n d), decide_eq_false_iff_not] at h
  rw [Nat.le_antisymm (roundMag_le n d) (Nat.le_of_not_lt h), fpack_infMag]

/-! ## Sums, products and quotients as one rounding -/

/-- An exact sum is rounded as any fraction is, with the sign given for an exact zero. -/
theorem roundInt_eq_fpack (zeroNeg : Bool) (v : Int) :
    roundInt zeroNeg v = fpack (if v = 0 then zeroNeg else decide (v < 0)) (roundMag v.natAbs 1) := by
  unfold roundInt
  split
  · next h => rw [h]; rfl
  · rfl

/-- The quotient of finite values is their exact quotient, rounded once. -/
theorem fdiv_finite {x y : Word} (hx : finite x = true) (hy : finite y = true)
    (h0 : fisZero y = false) :
    fdiv x y = fpack (fsign x != fsign y) (roundMag (funits x * 2 ^ 149) (funits y)) := by
  simp [fdiv, not_special_of_finite hx, not_special_of_finite hy, h0]

theorem fisZero_iff_funits {x : Word} (h : finite x = true) : fisZero x = true ↔ funits x = 0 := by
  rw [funits, magUnits_eq_zero_iff ((finite_iff x).mp h), fisZero, beq_iff_eq]

/-- A rounded quotient of magnitudes, with the sign of the operands' signs, in terms of the divisor itself. -/
theorem isNearestEven_quotient {r x y : Word} {c : Nat}
    (h : IsNearestEven r (funits y) (signed (fsign x != fsign y) (funits x * c))) :
    IsNearestEven r (fvalue y) (fvalue x * c) := by
  rw [fvalue_eq_signed x, fvalue_eq_signed y, signed_mul_natCast]
  cases hs : fsign y
  · simpa [hs, signed] using h
  · have hneg := isNearestEven_neg h
    rw [hs, Bool.bne_true, signed_not, neg_neg] at hneg
    exact hneg

end Sys2Proof.Machine
end

