-- ==== Sys2Proof/Proofs/Root.lean ====
section
/-! The square root (00 R10): the model rounds the integer root, or the half after it, in place of the exact
root. Both lie on the same side of every midpoint, since the values around a root are even. -/

namespace Sys2Proof.Machine

theorem magUnits_le_largest {m : Nat} (h : m < infMag) : magUnits m ≤ (2 ^ 24 - 1) * 2 ^ 253 := by
  rcases Nat.eq_or_lt_of_le (Nat.le_sub_one_of_lt h) with heq | hlt
  · rw [heq]; decide +kernel
  · exact le_trans (Nat.le_of_lt (magUnits_lt hlt (by decide))) (by decide +kernel)

/-- From twice the least normal value on, the values are whole numbers of two units. -/
theorem magUnits_even {m : Nat} (h : 2 ^ 24 ≤ m) : magUnits m % 2 = 0 := by
  obtain ⟨e, he⟩ : ∃ e, m / 2 ^ 23 = e + 2 := ⟨m / 2 ^ 23 - 2, by omega⟩
  rw [magUnits, if_neg (by omega), he, show e + 2 - 1 = e + 1 by omega, pow_succ 2 e, ← Nat.mul_assoc,
    Nat.mul_mod_left]

/-- Twice the root of `v`, as the model rounds it: doubled where it is exact, else the half between. -/
def twiceRoot (v : Nat) : Nat := if isqrt v * isqrt v = v then 2 * isqrt v else 2 * isqrt v + 1

theorem fsqrt_pos {x : Word} (hx : finite x = true) (h0 : fisZero x = false) (hs : fsign x = false) :
    fsqrt x = fpack false (roundMag (twiceRoot (funits x * 2 ^ 149)) 2) := by
  simp [fsqrt, twiceRoot, not_special_of_finite hx, h0, hs]

/-- An even bound not below the twofold root is not below the exact one. -/
theorem le_sq_of_twiceRoot_le {v S : Nat} (hv : v < 2 ^ 214 * 2 ^ 214) (hS : S % 2 = 0)
    (h : twiceRoot v ≤ S) : 4 * v ≤ S ^ 2 := by
  obtain ⟨hle, hlt⟩ := isqrt_spec hv
  obtain ⟨t, rfl⟩ : ∃ t, S = 2 * t := ⟨S / 2, by omega⟩
  have hroot : v ≤ t * t := by
    unfold twiceRoot at h
    split at h
    · have := Nat.mul_le_mul (show isqrt v ≤ t by omega) (show isqrt v ≤ t by omega)
      omega
    · have := Nat.mul_le_mul (show isqrt v + 1 ≤ t by omega) (show isqrt v + 1 ≤ t by omega)
      omega
  calc 4 * v ≤ 4 * (t * t) := Nat.mul_le_mul_left 4 hroot
    _ = (2 * t) ^ 2 := by ring

/-- An even bound not above the twofold root is not above the exact one. -/
theorem sq_le_of_le_twiceRoot {v S : Nat} (hv : v < 2 ^ 214 * 2 ^ 214) (hS : S % 2 = 0)
    (h : S ≤ twiceRoot v) : S ^ 2 ≤ 4 * v := by
  obtain ⟨hle, -⟩ := isqrt_spec hv
  obtain ⟨t, rfl⟩ : ∃ t, S = 2 * t := ⟨S / 2, by omega⟩
  have ht : t ≤ isqrt v := by
    unfold twiceRoot at h
    split at h <;> omega
  have := Nat.mul_le_mul ht ht
  calc (2 * t) ^ 2 = 4 * (t * t) := by ring
    _ ≤ 4 * v := by omega

/-- The twofold root of a positive number of units, between the bounds of finite values. -/
theorem twiceRoot_bounds {u : Nat} (hpos : 0 < u) (hu : u ≤ (2 ^ 24 - 1) * 2 ^ 253) :
    2 ^ 75 ≤ twiceRoot (u * 2 ^ 149) ∧ twiceRoot (u * 2 ^ 149) < 2 ^ 215 := by
  obtain ⟨hle, hlt⟩ := isqrt_spec (v := u * 2 ^ 149) (by omega)
  have hlow : 2 ^ 74 < isqrt (u * 2 ^ 149) + 1 := by
    by_contra hc
    have := Nat.mul_le_mul (Nat.le_of_not_lt hc) (Nat.le_of_not_lt hc)
    omega
  have hhigh : isqrt (u * 2 ^ 149) < 2 ^ 214 := by
    by_contra hc
    have := Nat.mul_le_mul (Nat.le_of_not_lt hc) (Nat.le_of_not_lt hc)
    omega
  unfold twiceRoot
  split <;> omega

/-- The pattern of a root is far above those whose values can be odd. -/
theorem roundMag_root_ge {n : Nat} (h : 2 ^ 75 ≤ n) : 2 ^ 24 < roundMag n 2 := by
  have hmono := roundMag_mono (n := magUnits (52 * 2 ^ 23)) (d := 1) (n' := n) (d' := 2) (by decide)
    (by decide) (by rw [show magUnits (52 * 2 ^ 23) = 2 ^ 74 by decide +kernel]; omega)
  rw [roundMag_magUnits (by decide)] at hmono
  omega

/-- No midpoint between the rounded root and another pattern lies strictly between it and the exact root. -/
theorem root_nearest {u r m : Nat} (hpos : 0 < u) (hu : u ≤ (2 ^ 24 - 1) * 2 ^ 253)
    (hr : roundMag (twiceRoot (u * 2 ^ 149)) 2 = r) (hm : m < infMag) :
    (r < m → 4 * (u * 2 ^ 149) ≤ (magUnits r + magUnits m) ^ 2) ∧
    (m < r → (magUnits r + magUnits m) ^ 2 ≤ 4 * (u * 2 ^ 149)) := by
  have hv : u * 2 ^ 149 < 2 ^ 214 * 2 ^ 214 := by omega
  have hlow : 2 ^ 24 < r := hr ▸ roundMag_root_ge (twiceRoot_bounds hpos hu).1
  have hrInf : r ≤ infMag := hr ▸ roundMag_le _ _
  have hrEven := magUnits_even (m := r) (by omega)
  have nearest {p : Nat} (hp : p < infMag) :=
    roundMag_nearest (num := twiceRoot (u * 2 ^ 149)) Nat.two_pos hp
  rw [hr] at nearest
  constructor
  · intro h
    have hmid := ((nearest hm).1 h).1
    have hmEven := magUnits_even (m := m) (by omega)
    exact le_sq_of_twiceRoot_le hv (by omega) (by omega)
  · intro h
    have hmid := ((nearest (p := r - 1) (by omega)).2 (by omega)).1
    have hpredEven := magUnits_even (m := r - 1) (by omega)
    have hmono : magUnits m ≤ magUnits (r - 1) := by
      by_contra hc
      have := (magUnits_lt_iff (by omega) hm).mp (Nat.lt_of_not_le hc)
      omega
    calc (magUnits r + magUnits m) ^ 2 ≤ (magUnits r + magUnits (r - 1)) ^ 2 :=
          Nat.pow_le_pow_left (by omega) 2
      _ ≤ 4 * (u * 2 ^ 149) := sq_le_of_le_twiceRoot hv (by omega) (by omega)

/-- A value that is not negative is its magnitude. -/
theorem fvalue_of_nonneg {x : Word} (h : 0 ≤ fvalue x) : fvalue x = (funits x : Int) := by
  have := natAbs_fvalue x
  omega

end Sys2Proof.Machine
end

