-- ==== Sys2Proof/Proofs/SpecialValues.lean ====
section
/-! The order of the comparisons, and the results of operands of every class: NaN, infinity, zero, finite
(00 R10, log entry 7). -/

namespace Sys2Proof.Machine

/-! ## Comparisons -/

/-- The order of the keys is that of the exact values. -/
theorem fkey_lt_iff_fvalue_lt {x y : Word} (hx : finite x = true) (hy : finite y = true) :
    fkey x < fkey y ↔ fvalue x < fvalue y := by
  rw [finite_iff] at hx hy
  have hxy := magUnits_lt_iff hx hy
  have hyx := magUnits_lt_iff hy hx
  have hx0 := magUnits_eq_zero_iff hx
  have hy0 := magUnits_eq_zero_iff hy
  simp only [fkey, fvalue, funits]
  cases fsign x <;> cases fsign y <;> simp only [Bool.false_eq_true, if_true, if_false] <;> omega

theorem flt_iff {x y : Word} (hx : fisNaN x = false) (hy : fisNaN y = false) :
    flt x y = true ↔ fkey x < fkey y := by
  simp [flt, hx, hy]

/-- The key of a finite value lies between those of the infinities. -/
theorem natAbs_fkey_lt {x : Word} (hx : finite x = true) : (fkey x).natAbs < infMag := by
  rw [finite_iff] at hx
  unfold fkey
  split <;> omega

/-! ## Results that are no finite value -/

@[simp] theorem fmag_fneg (x : Word) : fmag (fneg x) = fmag x := by
  unfold fmag fneg
  rw [BitVec.toNat_xor, Nat.xor_mod_two_pow]
  exact Nat.xor_zero _

@[simp] theorem fsign_fneg (x : Word) : fsign (fneg x) = !fsign x := by
  unfold fsign fneg
  rw [BitVec.msb_xor]
  exact Bool.xor_true _

@[simp] theorem fisNaN_fneg (x : Word) : fisNaN (fneg x) = fisNaN x := by simp [fisNaN]

@[simp] theorem fisInf_fneg (x : Word) : fisInf (fneg x) = fisInf x := by simp [fisInf]

@[simp] theorem finite_fneg (x : Word) : finite (fneg x) = finite x := by simp [finite]

/-- An infinity is no NaN and no zero. -/
theorem not_nan_zero_of_inf {x : Word} (h : fisInf x = true) : fisNaN x = false ∧ fisZero x = false := by
  simp only [fisInf, beq_iff_eq] at h
  simp [fisNaN, fisZero, h, infMag]

/-- A zero is finite. -/
theorem finite_of_zero {x : Word} (h : fisZero x = true) : finite x = true := by
  simp only [fisZero, beq_iff_eq] at h
  simp [finite, h, infMag]

theorem fpack_bne_infMag (a b : Bool) :
    fpack (a != b) infMag = if a = b then 0x7F800000#32 else 0xFF800000#32 := by
  cases a <;> cases b <;> rfl

theorem fpack_bne_zero (a b : Bool) :
    fpack (a != b) 0 = if a = b then 0x00000000#32 else 0x80000000#32 := by
  cases a <;> cases b <;> rfl

/-- 00 R10: a result that is the canonical NaN where it is a NaN at all. -/
def NaNIsCanonical (r : Word) : Prop := fisNaN r = true → r = canonicalNaN

theorem nanIsCanonical_canonicalNaN : NaNIsCanonical canonicalNaN := fun _ => rfl

theorem nanIsCanonical_of_not_nan {r : Word} (h : fisNaN r = false) : NaNIsCanonical r :=
  fun h' => absurd h' (by simp [h])

theorem nanIsCanonical_fpack_infMag (neg : Bool) : NaNIsCanonical (fpack neg infMag) :=
  nanIsCanonical_of_not_nan (fisNaN_fpack neg le_rfl)

theorem nanIsCanonical_fpack_roundMag (neg : Bool) (num den : Nat) :
    NaNIsCanonical (fpack neg (roundMag num den)) :=
  nanIsCanonical_of_not_nan (fisNaN_fpack_roundMag neg num den)

theorem nanIsCanonical_fmul (x y : Word) : NaNIsCanonical (fmul x y) := by
  unfold fmul
  dsimp only
  split
  · exact nanIsCanonical_canonicalNaN
  · split
    · split
      · exact nanIsCanonical_canonicalNaN
      · exact nanIsCanonical_fpack_infMag _
    · exact nanIsCanonical_fpack_roundMag _ _ _

theorem nanIsCanonical_fdiv (x y : Word) : NaNIsCanonical (fdiv x y) := by
  unfold fdiv
  dsimp only
  split
  · exact nanIsCanonical_canonicalNaN
  · split
    · split
      · exact nanIsCanonical_canonicalNaN
      · exact nanIsCanonical_fpack_infMag _
    · split
      · exact nanIsCanonical_of_not_nan (fisNaN_fpack _ (Nat.zero_le _))
      · split
        · split
          · exact nanIsCanonical_canonicalNaN
          · exact nanIsCanonical_fpack_infMag _
        · exact nanIsCanonical_fpack_roundMag _ _ _

theorem nanIsCanonical_fsqrt (x : Word) : NaNIsCanonical (fsqrt x) := by
  unfold fsqrt
  dsimp only
  split
  · exact nanIsCanonical_canonicalNaN
  · next hx =>
    have hnan : NaNIsCanonical x := nanIsCanonical_of_not_nan (Bool.not_eq_true _ ▸ hx)
    split
    · exact hnan
    · split
      · exact nanIsCanonical_canonicalNaN
      · split
        · exact hnan
        · exact nanIsCanonical_fpack_roundMag _ _ _

theorem fadd_of_nan {x y : Word} (h : fisNaN x = true ∨ fisNaN y = true) : fadd x y = canonicalNaN :=
  if_pos (by simpa using h)

theorem fmul_of_nan {x y : Word} (h : fisNaN x = true ∨ fisNaN y = true) : fmul x y = canonicalNaN :=
  if_pos (by simpa using h)

theorem fdiv_of_nan {x y : Word} (h : fisNaN x = true ∨ fisNaN y = true) : fdiv x y = canonicalNaN :=
  if_pos (by simpa using h)

theorem fsqrt_of_nan {x : Word} (h : fisNaN x = true) : fsqrt x = canonicalNaN := if_pos h

/-- A finite value added to an infinity, on either side, leaves it. -/
theorem fadd_inf_finite {x y : Word} (hx : fisInf x = true) (hy : finite y = true) :
    fadd x y = x ∧ fadd y x = x := by
  obtain ⟨hyn, hyi⟩ := not_special_of_finite hy
  simp [fadd, hx, (not_nan_zero_of_inf hx).1, hyn, hyi]

theorem fadd_inf_inf {x y : Word} (hx : fisInf x = true) (hy : fisInf y = true) :
    fadd x y = if fsign x = fsign y then x else canonicalNaN := by
  have hsplit : (if (fsign x != fsign y) = true then canonicalNaN else x) =
      if fsign x = fsign y then x else canonicalNaN := by
    cases fsign x <;> cases fsign y <;> rfl
  rw [← hsplit]
  simp only [fadd, hx, hy, (not_nan_zero_of_inf hx).1, (not_nan_zero_of_inf hy).1, Bool.or_self,
    Bool.true_and, Bool.false_eq_true, if_true, if_false]

/-- The product of an infinity with a value that is no NaN. -/
theorem fmul_inf {x y : Word} (hx : fisInf x = true) (hy : fisNaN y = false) :
    fmul x y = if fisZero y = true then canonicalNaN
      else if fsign x = fsign y then 0x7F800000#32 else 0xFF800000#32 := by
  obtain ⟨hxn, hxz⟩ := not_nan_zero_of_inf hx
  simp only [fmul, hx, hy, hxn, hxz, fpack_bne_infMag, Bool.or_self, Bool.true_or, Bool.false_or,
    Bool.false_eq_true, if_true, if_false]

theorem fdiv_inf_finite {x y : Word} (hx : fisInf x = true) (hy : finite y = true) :
    fdiv x y = if fsign x = fsign y then 0x7F800000#32 else 0xFF800000#32 := by
  simp [fdiv, hx, (not_nan_zero_of_inf hx).1, not_special_of_finite hy, fpack_bne_infMag]

theorem fdiv_finite_inf {x y : Word} (hx : finite x = true) (hy : fisInf y = true) :
    fdiv x y = if fsign x = fsign y then 0x00000000#32 else 0x80000000#32 := by
  simp [fdiv, hy, (not_nan_zero_of_inf hy).1, not_special_of_finite hx, fpack_bne_zero]

theorem fdiv_inf_inf {x y : Word} (hx : fisInf x = true) (hy : fisInf y = true) :
    fdiv x y = canonicalNaN := by
  simp [fdiv, hx, hy, not_nan_zero_of_inf]

theorem fdiv_finite_zero {x y : Word} (hx : finite x = true) (hy : fisZero y = true) :
    fdiv x y = if fisZero x = true then canonicalNaN
      else if fsign x = fsign y then 0x7F800000#32 else 0xFF800000#32 := by
  simp [fdiv, hy, not_special_of_finite hx, not_special_of_finite (finite_of_zero hy), fpack_bne_infMag]

theorem fsqrt_zero {x : Word} (hx : fisZero x = true) : fsqrt x = x := by
  simp [fsqrt, hx, not_special_of_finite (finite_of_zero hx)]

theorem fsqrt_negative {x : Word} (hn : fisNaN x = false) (hz : fisZero x = false)
    (hs : fsign x = true) : fsqrt x = canonicalNaN := by
  simp [fsqrt, hn, hz, hs]

end Sys2Proof.Machine
end

