-- ==== Sys2Proof/Proofs/Arithmetic.lean ====
section
/-! The statements about the arithmetic (00 R10), settled from the laws above. -/

namespace Sys2Proof.Machine

/-- Settles O56: the sum is `roundInt` of the exact sum, which is one `fpack` of a rounding. -/
theorem addRoundsToNearestEven : Obligations.AddRoundsToNearestEven := by
  unfold Obligations.AddRoundsToNearestEven
  intro x y hx hy
  simp only [fadd_finite hx hy]
  generalize hv : fvalue x + fvalue y = v
  generalize hz : (fsign x && fsign y) = zeroNeg
  have hround := roundInt_eq_fpack zeroNeg v
  refine ⟨rfl, ?_, fun hinf => ?_, fun h0 => ?_, fun _ => ⟨fun hneg => ?_, fun hpos => ?_⟩, fun hfin => ?_⟩
  · rw [hround, finite_fpack_roundMag_iff _ Nat.one_pos, Nat.mul_one]
  · rw [hround] at hinf
    have hne : v ≠ 0 := by
      rintro rfl
      rw [finite_fpack_roundMag_iff _ Nat.one_pos |>.mpr (by decide)] at hinf
      contradiction
    rw [hround, fpack_roundMag_of_not_finite hinf, if_neg hne]
    simp only [decide_eq_true_eq]
  · simp only [roundInt, if_pos h0, fpack_zero, ← hz, Bool.and_eq_true]
  · rw [hround, fsign_fpack _ (roundMag_lt _ _), if_neg (by omega), decide_eq_true hneg]
  · rw [hround, fsign_fpack _ (roundMag_lt _ _), if_neg (by omega), decide_eq_false (by omega)]
  · have hval : signed (if v = 0 then zeroNeg else decide (v < 0)) v.natAbs = v := by
      split
      · next h => subst h; cases zeroNeg <;> rfl
      · exact signed_natAbs v
    rw [hround] at hfin ⊢
    have hnear := isNearestEven_fpack Nat.one_pos hfin
    rw [hval] at hnear
    simpa [IsNearestEven] using hnear

/-- Settles O57: product and quotient are each one `fpack` of a rounding; a negative divisor flips the sign
of the scale and of the exact quotient alike. -/
theorem mulAndDivRoundToNearestEven : Obligations.MulAndDivRoundToNearestEven := by
  unfold Obligations.MulAndDivRoundToNearestEven
  intro x y hx hy
  simp only [fmul_finite hx hy]
  refine ⟨⟨fsign_fpack _ (roundMag_lt _ _), ?_, fpack_roundMag_of_not_finite, fun hfin => ?_⟩, fun h0 => ?_⟩
  · rw [finite_fpack_roundMag_iff _ (Nat.two_pow_pos 149), Int.natAbs_mul, natAbs_fvalue, natAbs_fvalue]
  · have hnear := isNearestEven_fpack (Nat.two_pow_pos 149) hfin
    rw [← signed_mul_signed, Nat.cast_pow, Nat.cast_ofNat] at hnear
    exact hnear
  · have hu : funits y ≠ 0 := by rwa [← natAbs_fvalue, Int.natAbs_ne_zero]
    have hpos := Nat.pos_of_ne_zero hu
    rw [fdiv_finite hx hy (by rwa [← Bool.not_eq_true, fisZero_iff_funits hy])]
    refine ⟨fsign_fpack _ (roundMag_lt _ _), ?_, fpack_roundMag_of_not_finite, fun hfin => ?_⟩
    · rw [finite_fpack_roundMag_iff _ hpos, Int.natAbs_mul, natAbs_fvalue, natAbs_fvalue]
      rfl
    · exact isNearestEven_quotient (isNearestEven_fpack hpos hfin)

/-- Settles O58: the rounded twofold root stands for the exact root, because the values around it are even. -/
theorem sqrtRoundsToNearest : Obligations.SqrtRoundsToNearest := by
  unfold Obligations.SqrtRoundsToNearest
  intro x hx hpos
  have hval := fvalue_of_nonneg (Int.le_of_lt hpos)
  have hu : 0 < funits x := by omega
  have hle := magUnits_le_largest ((finite_iff x).mp hx)
  have hs : fsign x = false := by
    by_contra hc
    rw [fvalue, if_pos (by simpa using hc)] at hpos
    omega
  have h0 : fisZero x = false := by
    rw [← Bool.not_eq_true, fisZero_iff_funits hx]; omega
  obtain ⟨-, hhigh⟩ := twiceRoot_bounds hu hle
  rw [fsqrt_pos hx h0 hs]
  generalize hr : roundMag (twiceRoot (funits x * 2 ^ 149)) 2 = r
  have hrInf : r < infMag := by
    have := (finite_fpack_roundMag_iff false Nat.two_pos).mpr (show twiceRoot (funits x * 2 ^ 149) <
      (2 ^ 25 - 1) * 2 ^ 252 * 2 by omega)
    rwa [hr, finite_fpack false (hr ▸ roundMag_lt _ _), decide_eq_true_eq] at this
  have hlt := lt_trans hrInf infMag_lt
  refine ⟨by rw [finite_fpack false hlt, decide_eq_true hrInf], fsign_fpack _ hlt, fun z hz hz0 => ?_⟩
  have hzInf := (finite_iff z).mp hz
  obtain ⟨above, below⟩ := root_nearest hu hle hr hzInf
  rw [fvalue_fpack false hlt, if_neg (by decide), hval, fvalue_of_nonneg hz0]
  constructor
  · intro h
    exact_mod_cast above ((magUnits_lt_iff hrInf hzInf).mp (by exact_mod_cast h))
  · intro h
    exact_mod_cast below ((magUnits_lt_iff hzInf hrInf).mp (by exact_mod_cast h))

/-- Settles O59: fge and fgt are flt negated or turned round, and flt orders by keys, as the values do. -/
theorem comparisonsOrderByValue : Obligations.ComparisonsOrderByValue := by
  unfold Obligations.ComparisonsOrderByValue
  refine ⟨fun x y hx hy => ?_, fun x hx => ?_, fun x y hnan => ?_⟩
  · have hxn := (not_special_of_finite hx).1
    have hyn := (not_special_of_finite hy).1
    have hxy : flt x y = true ↔ fvalue x < fvalue y :=
      (flt_iff hxn hyn).trans (fkey_lt_iff_fvalue_lt hx hy)
    have hyx : flt y x = true ↔ fvalue y < fvalue x :=
      (flt_iff hyn hxn).trans (fkey_lt_iff_fvalue_lt hy hx)
    refine ⟨?_, flt_eq_fgt y x ▸ hyx, hxy⟩
    rw [fge_eq_not_flt hxn hyn, Bool.not_eq_true', ← Bool.not_eq_true, hxy, Int.not_lt]
  · have hxn := (not_special_of_finite hx).1
    have hkey := natAbs_fkey_lt hx
    rw [← flt_eq_fgt, flt_iff hxn (by decide), flt_iff (by decide) hxn,
      show fkey 0x7F800000#32 = infMag by decide, show fkey 0xFF800000#32 = -infMag by decide]
    omega
  · exact ⟨fge_false_of_nan hnan, fgt_false_of_nan hnan, flt_eq_fgt x y ▸ fgt_false_of_nan hnan.symm⟩

/-- Settles O60, class of operands by class. -/
theorem nonFiniteResults : Obligations.NonFiniteResults := by
  unfold Obligations.NonFiniteResults
  refine ⟨fun x y => ⟨fadd_nan, fadd_nan, nanIsCanonical_fmul x y,
      nanIsCanonical_fdiv x y, nanIsCanonical_fsqrt x⟩, fun x y h => ?nanOperand,
    fun x => fsqrt_of_nan, fun x y hx hy => ?infFinite, fun x y hx hy => ?infInf,
    fun x y => fdiv_finite_zero, fun x => fsqrt_zero, fun x => fsqrt_negative, by decide⟩
  case nanOperand =>
    exact ⟨fadd_of_nan h, fadd_of_nan (by rwa [fisNaN_fneg]), fmul_of_nan h, fdiv_of_nan h⟩
  case infFinite =>
    obtain ⟨hadd, hadd'⟩ := fadd_inf_finite hx hy
    have hsub : fsub x y = x := (fadd_inf_finite hx ((finite_fneg y).trans hy)).1
    have hsub' : fsub y x = fneg x := (fadd_inf_finite ((fisInf_fneg x).trans hx) hy).2
    have hdiv := fdiv_finite_inf hy hx
    simp only [eq_comm (a := fsign y)] at hdiv
    exact ⟨hadd, hadd', hsub, hsub', fdiv_inf_finite hx hy, hdiv, fmul_inf hx (not_special_of_finite hy).1⟩
  case infInf =>
    obtain ⟨hyn, hyz⟩ := not_nan_zero_of_inf hy
    have hmul := fmul_inf hx hyn
    rw [hyz, if_neg (by decide)] at hmul
    exact ⟨fadd_inf_inf hx hy, fdiv_inf_inf hx hy, hmul⟩

end Sys2Proof.Machine
end

