-- ==== Sys2Proof/Proofs/Commands.lean ====
section
/-! How every command ends, said once (30 R89, 60 R281 to R284): refused with the state as it was, one of the
three commands that write the configuration or construct the units, a read, or the work of one unit in RUN.
The claims about what every command keeps are case analyses of `CommandEnds`. -/

namespace Sys2Proof.Machine

open Sys2Proof.Safety

/-! ## A command in the words of the claims -/

/-- The block's state after a result. -/
def CmdResult.leaves (a : Arch) : CmdResult → Arch
  | .ok b _ => b
  | .raise _ => a
  | .diverge b => b.takeDivergence

/-- The response header of a result. -/
def CmdResult.header (o : Opcode) : CmdResult → Word
  | .ok _ r => mkRspHeader (BitVec.ofNat 2 r.data.length) o.byte r.pkt r.bit r.valid (rcValue .ok)
  | .raise rc => mkRspHeader 0#2 o.byte false false false (rcValue rc)
  | .diverge _ => mkRspHeader 0#2 o.byte false false false (rcValue .diverged)

/-- The data words of a result. -/
def CmdResult.words : CmdResult → List Word
  | .ok _ r => r.data
  | .raise _ | .diverge _ => []

theorem finish_eq_answered (o : Opcode) (s : State) (r : CmdResult) :
    finish o s r = .next (answered s (r.leaves s.arch) (r.header o :: r.words)) := by
  cases r <;> rfl

theorem exec_eq_next_iff {i : Instr} {s t : State} :
    exec i s = .next t ↔
      t = answered s ((commandResult i s.arch).leaves s.arch)
        ((commandResult i s.arch).header i.opcode :: (commandResult i s.arch).words) := by
  rw [exec_eq_finish, finish_eq_answered, Host.Outcome.next.injEq, eq_comm]

/-! ## The work of the units -/

/-- What the work of a class M command leaves, before a trap entry, and whether it emits a packet. A receive
step ends with the synchronizer or, on a symbol, with the chain behind it. -/
inductive UnitWork (a : Arch) : Instr → Arch → Bool → Prop
  | pcTick : UnitWork a .pcTick a.tick.1 false
  | pcAdv (d : Word) : UnitWork a (.pcAdv d) (a.advanceBy d).1 false
  | piUpdate (e : Word) : UnitWork a (.piUpdate e) (a.piUpdate e).1 false
  | agcTick (re im : Word) : UnitWork a (.agcTick re im) (a.agcStep (sampleOperand re im)).1 false
  | corrTick (imm : BitVec 16) : UnitWork a (.corrTick imm) (a.corrStep (bitOperand imm)).1 false
  | corrReset : UnitWork a .corrReset a.corrReset.1 false
  | pktTick (imm : BitVec 16) :
      UnitWork a (.pktTick imm) (a.pktStep (bitOperand imm)).1 (a.pktStep (bitOperand imm)).2
  | lfsrNext : UnitWork a .lfsrNext a.lfsrNext.1 false
  | lfsrSeed : UnitWork a .lfsrSeed a.lfsrReseed false
  | descramble : UnitWork a .descramble a.descramble false
  | ssTick (re im : Word) :
      UnitWork a (.ssTick re im) (a.countSample.ssStep (sampleOperand re im)).1 false
  | rxSync (re im : Word) :
      UnitWork a (.rxTick re im) (a.countSample.ssStep (sampleOperand re im)).1 false
  | rxChain (re im : Word) (bit : Bool) :
      UnitWork a (.rxTick re im)
        ((a.countSample.ssStep (sampleOperand re im)).1.chainStep a.sampleCount bit).1
        ((a.countSample.ssStep (sampleOperand re im)).1.chainStep a.sampleCount bit).2

/-- Everything a command can do on a state of the block. -/
inductive CommandEnds (i : Instr) (a : Arch) : CmdResult → Prop
  | refused (rc : ResultCode) (command : i ≠ .reset) (error : rc ≠ .ok)
      (unsampled : ¬(takesSample i = true ∧ a.lifecycle = .run)) : CommandEnds i a (.raise rc)
  | reset (command : i = .reset) : CommandEnds i a (.ok Arch.reset {})
  | started (command : i = .start) (config : a.lifecycle = .config) (legal : startLegal a = true) :
      CommandEnds i a (.ok a.deriveConstants.construct {})
  | stored (n : BitVec 16) (c : Csr) (d : Word) (command : i = .csrWr n d)
      (config : a.lifecycle = .config) : CommandEnds i a (.ok (csrStore a c d) {})
  | read (r : Reply) (command : i = .nop ∨ (∃ n, i = .csrRd n) ∨ inspects i = true)
      (silent : r.pkt = false) : CommandEnds i a (.ok a r)
  | worked (b : Arch) (r : Reply) (run : a.lifecycle = .run) (work : UnitWork a i b r.pkt) :
      CommandEnds i a (.ok b r)
  | diverged (b : Arch) (run : a.lifecycle = .run) (work : UnitWork a i b false) :
      CommandEnds i a (.diverge b)

/-! ## Every command ends so -/

theorem classError_ne_ok (c : CmdClass) (l : Lifecycle) : classError c l ≠ some .ok := by
  cases c <;> cases l <;> decide

theorem run_of_mutate_admitted {l : Lifecycle} (h : classError .mutate l = none) : l = .run := by
  cases l with
  | run => rfl
  | config | fault => cases h

theorem config_of_write_admitted {l : Lifecycle} (h : classError .write l = none) : l = .config := by
  cases l with
  | config => rfl
  | run | fault => cases h

theorem config_of_start_admitted {l : Lifecycle} (h : classError .start l = none) : l = .config := by
  cases l with
  | config => rfl
  | run | fault => cases h

/-- In RUN the class check admits every command that feeds a sample. -/
theorem classError_of_takesSample {i : Instr} {l : Lifecycle} (hi : takesSample i = true) (hl : l = .run) :
    classError (cmdClass i.opcode) l = none := by
  subst hl
  cases i with
  | ssTick | rxTick => rfl
  | _ => cases hi

@[simp] theorem overrunReply_pkt (v : Option Word) : (overrunReply v).pkt = false := by
  cases v <;> rfl

theorem bufferRead_ends {i : Instr} {a : Arch} {sel : BitVec 4} {read : Machine.Instance → Option (List Word)}
    (hi : inspects i = true) (hs : takesSample i = false) : CommandEnds i a (bufferRead a sel read) := by
  have unsampled : ¬(takesSample i = true ∧ a.lifecycle = .run) := by simp [hs]
  have command : i ≠ .reset := fun e => by rw [e] at hi; cases hi
  unfold bufferRead
  split
  · exact .refused .badOperand command (by decide) unsampled
  · split
    · exact .refused .indexRange command (by decide) unsampled
    · next ws _ => exact .read { data := ws } (.inr (.inr hi)) rfl

/-- The work of a command whose class STATE admits. -/
theorem commandBody_ends {i : Instr} {a : Arch} (h : classError (cmdClass i.opcode) a.lifecycle = none) :
    CommandEnds i a (commandBody i a) := by
  have run : cmdClass i.opcode = .mutate → a.lifecycle = .run := fun e =>
    run_of_mutate_admitted (e ▸ h)
  cases i with
  | nop => exact .read _ (.inl rfl) rfl
  | reset => exact .reset rfl
  | start =>
    simp only [commandBody]
    split
    · next legal => exact .started rfl (config_of_start_admitted h) legal
    · exact .refused _ (by simp) (by decide) (by simp [takesSample])
  | csrRd n =>
    simp only [commandBody]
    split
    · exact .refused _ (by simp) (by decide) (by simp [takesSample])
    · exact .read _ (.inr (.inl ⟨n, rfl⟩)) rfl
  | csrWr n d =>
    simp only [commandBody]
    split
    · exact .refused _ (by simp) (by decide) (by simp [takesSample])
    · next c _ => exact .stored n c d rfl (config_of_write_admitted h)
  | cbRds sel k => exact bufferRead_ends rfl rfl
  | cbRdu sel j => exact bufferRead_ends rfl rfl
  | pcSin | pcCos | pcPhasor | ted => exact .read _ (.inr (.inr rfl)) rfl
  | interp mu =>
    simp only [commandBody]
    split
    · exact .read _ (.inr (.inr rfl)) rfl
    · exact .refused _ (by simp) (by decide) (by simp [takesSample])
  | pktRdw w =>
    simp only [commandBody]
    split
    · exact .refused _ (by simp) (by decide) (by simp [takesSample])
    · exact .read _ (.inr (.inr rfl)) rfl
  | pcTick => exact .worked _ _ (run rfl) (by rw [overrunReply_pkt]; exact .pcTick)
  | pcAdv d => exact .worked _ _ (run rfl) (by rw [overrunReply_pkt]; exact .pcAdv d)
  | piUpdate e => exact .worked _ _ (run rfl) (.piUpdate e)
  | agcTick re im => exact .worked _ _ (run rfl) (.agcTick re im)
  | corrTick imm => exact .worked _ _ (run rfl) (.corrTick imm)
  | corrReset => exact .worked _ _ (run rfl) .corrReset
  | pktTick imm => exact .worked _ _ (run rfl) (.pktTick imm)
  | lfsrNext => exact .worked _ _ (run rfl) .lfsrNext
  | lfsrSeed => exact .worked _ _ (run rfl) .lfsrSeed
  | descramble => exact .worked _ _ (run rfl) .descramble
  | ssTick re im =>
    have work := UnitWork.ssTick (a := a) re im
    simp only [commandBody]
    generalize a.countSample.ssStep (sampleOperand re im) = p at work ⊢
    obtain ⟨b, _ | y | _⟩ := p
    · exact .worked _ _ (run rfl) work
    · exact .worked _ _ (run rfl) work
    · exact .diverged _ (run rfl) work
  | rxTick re im =>
    have sync := UnitWork.rxSync (a := a) re im
    have chain := UnitWork.rxChain (a := a) re im
    simp only [commandBody]
    generalize a.countSample.ssStep (sampleOperand re im) = p at sync chain ⊢
    obtain ⟨b, _ | y | _⟩ := p
    · exact .worked _ _ (run rfl) sync
    · exact .worked _ _ (run rfl) (chain (slice y))
    · exact .diverged _ (run rfl) sync

theorem commandResult_ends (i : Instr) (a : Arch) : CommandEnds i a (commandResult i a) := by
  cases h : classError (cmdClass i.opcode) a.lifecycle with
  | none => exact commandResult_run h ▸ commandBody_ends h
  | some rc =>
    have unsampled : ¬(takesSample i = true ∧ a.lifecycle = .run) := fun ⟨hi, hl⟩ => by
      rw [classError_of_takesSample hi hl] at h
      cases h
    have error : rc ≠ .ok := fun e => classError_ne_ok _ _ (e ▸ h)
    cases i with
    | csrWr n d =>
      have hw : classError .write a.lifecycle = some rc := h
      cases hn : writableCsr n with
      | none =>
        have result : commandResult (.csrWr n d) a = .raise .badCsr := by simp [commandResult, hn]
        exact result ▸ .refused .badCsr (by simp) (by decide) unsampled
      | some c =>
        have result : commandResult (.csrWr n d) a = .raise rc := by simp [commandResult, hn, gated, hw]
        exact result ▸ .refused rc (by simp) error unsampled
    | reset => cases h
    | _ => exact commandResult_refused (by simp) h ▸ .refused rc (by simp) error unsampled

/-! ## Configuration and derived constants -/

theorem UnitWork.lifecycle_eq {a b : Arch} {i : Instr} {pkt : Bool} (w : UnitWork a i b pkt) :
    b.lifecycle = a.lifecycle := by
  cases w <;> simp [Arch.tick_eq]

theorem UnitWork.configuration_eq {a b : Arch} {i : Instr} {pkt : Bool} (w : UnitWork a i b pkt) :
    configuration b = configuration a := by
  cases w <;> simp [configuration, Arch.tick_eq]

theorem UnitWork.derivedConstants_eq {a b : Arch} {i : Instr} {pkt : Bool} (w : UnitWork a i b pkt) :
    derivedConstants b = derivedConstants a := by
  cases w <;> simp [derivedConstants, Arch.tick_eq]

/-- CSR_WR writes the configuration only (40 R126). -/
theorem csrStore_frame (a : Arch) (c : Csr) (d : Word) :
    csrStore a c d =
      { a with
        sps := (csrStore a c d).sps, loopBw := (csrStore a c d).loopBw
        loopDamp := (csrStore a c d).loopDamp, agcAlpha := (csrStore a c d).agcAlpha
        syncLen := (csrStore a c d).syncLen, syncPatLo := (csrStore a c d).syncPatLo
        syncPatHi := (csrStore a c d).syncPatHi, threshold := (csrStore a c d).threshold
        pktLen := (csrStore a c d).pktLen, lfsrPoly := (csrStore a c d).lfsrPoly
        lfsrSeed := (csrStore a c d).lfsrSeed } := by
  cases c <;> rfl

theorem csrStore_derivedConstants (a : Arch) (c : Csr) (d : Word) :
    derivedConstants (csrStore a c d) = derivedConstants a := by
  rw [csrStore_frame]; rfl

/-- Outside START and CSR_WR, every command but RESET holds both (10 R23, R34). -/
theorem CommandEnds.configuration_eq {i : Instr} {a : Arch} {r : CmdResult} (h : CommandEnds i a r)
    (hr : i ≠ .reset) (hw : (∀ n d, i ≠ .csrWr n d) ∨ a.lifecycle ≠ .config) :
    configuration (r.leaves a) = configuration a := by
  cases h with
  | reset command => exact absurd command hr
  | stored n c d command config => exact (hw.elim (· n d command) (· config)).elim
  | started | refused | read => rfl
  | worked b r run work => exact work.configuration_eq
  | diverged b run work => exact work.configuration_eq

theorem CommandEnds.derivedConstants_eq {i : Instr} {a : Arch} {r : CmdResult} (h : CommandEnds i a r)
    (hr : i ≠ .reset) (hs : i ≠ .start ∨ a.lifecycle ≠ .config) :
    derivedConstants (r.leaves a) = derivedConstants a := by
  cases h with
  | reset command => exact absurd command hr
  | started command config => exact (hs.elim (· command) (· config)).elim
  | stored n c d => exact csrStore_derivedConstants a c d
  | refused | read => rfl
  | worked b r run work => exact work.derivedConstants_eq
  | diverged b run work => exact work.derivedConstants_eq

/-- Settles O23, from how every command ends. -/
theorem configurationIsHeld : Obligations.ConfigurationIsHeld := by
  unfold Obligations.ConfigurationIsHeld
  intro i s t h hr
  obtain rfl := exec_eq_next_iff.mp h
  have ends := commandResult_ends i s.arch
  exact ⟨fun hc => ⟨ends.configuration_eq hr (.inr hc), ends.derivedConstants_eq hr (.inr hc)⟩,
    fun hw => ends.configuration_eq hr (.inl hw), fun hs => ends.derivedConstants_eq hr (.inl hs)⟩

/-! ## The counters (10 R50) -/

/-- A packet is counted exactly where one is emitted (48 R245). -/
theorem Arch.pktStep_packetCount (a : Arch) (bit : Bool) :
    (a.pktStep bit).1.packetCount =
      if (a.pktStep bit).2 = true then a.packetCount + 1#32 else a.packetCount := by
  rcases Arch.pktStep_cases a bit with ⟨-, -, e⟩ | ⟨-, -, e⟩ | ⟨-, -, e⟩ | ⟨-, -, e⟩ <;> rw [e] <;> rfl

theorem Arch.chainStep_packetCount (a : Arch) (sample : BitVec 64) (bit : Bool) :
    (a.chainStep sample bit).1.packetCount =
      if (a.chainStep sample bit).2 = true then a.packetCount + 1#32 else a.packetCount := by
  have count := Arch.pktStep_packetCount a bit
  rcases Arch.chainStep_cases a sample bit with ⟨silent, e⟩ | ⟨emitted, e⟩
  · rw [e]; simpa [silent] using count
  · rw [e]; simpa [emitted] using count

/-- The chain latches the sample's index exactly where it emits a packet (49 R273). -/
theorem Arch.chainStep_pktSampleIndex (a : Arch) (sample : BitVec 64) (bit : Bool) :
    (a.chainStep sample bit).1.pktSampleIndex =
      if (a.chainStep sample bit).2 = true then sample else a.pktSampleIndex := by
  rcases Arch.chainStep_cases a sample bit with ⟨-, e⟩ | ⟨-, e⟩ <;> rw [e] <;> simp

/-- How the counters move where a command neither resets nor constructs the units; `pkt` is the response's
PKT. -/
structure CountersMove (i : Instr) (a b : Arch) (pkt : Bool) : Prop where
  sampleCount : b.sampleCount =
    if takesSample i = true ∧ a.lifecycle = .run then a.sampleCount + 1#64 else a.sampleCount
  packetCount : b.packetCount = if pkt = true then a.packetCount + 1#32 else a.packetCount
  pktSampleIndex : b.pktSampleIndex =
    if runsChain i = true ∧ pkt = true then a.sampleCount else a.pktSampleIndex

theorem CountersMove.refl {i : Instr} {a : Arch} (h : ¬(takesSample i = true ∧ a.lifecycle = .run)) :
    CountersMove i a a false :=
  ⟨(if_neg h).symm, rfl, (if_neg (by simp)).symm⟩

theorem UnitWork.command_ne {a b : Arch} {i : Instr} {pkt : Bool} (w : UnitWork a i b pkt) :
    i ≠ .reset ∧ i ≠ .start := by
  cases w <;> simp

theorem UnitWork.countersMove {a b : Arch} {i : Instr} {pkt : Bool} (w : UnitWork a i b pkt)
    (run : a.lifecycle = .run) : CountersMove i a b pkt := by
  cases w with
  | pktTick imm => exact ⟨by simp [takesSample], Arch.pktStep_packetCount _ _, by simp [runsChain]⟩
  | ssTick re im => exact ⟨by simp [takesSample, run], by simp, by simp⟩
  | rxSync re im => exact ⟨by simp [takesSample, run], by simp, by simp⟩
  | rxChain re im bit =>
    refine ⟨by simp [takesSample, run], ?_, ?_⟩
    · simpa using Arch.chainStep_packetCount (a.countSample.ssStep (sampleOperand re im)).1 a.sampleCount bit
    · simpa [runsChain] using
        Arch.chainStep_pktSampleIndex (a.countSample.ssStep (sampleOperand re im)).1 a.sampleCount bit
  | _ => exact ⟨by simp [takesSample, Arch.tick_eq], by simp [Arch.tick_eq], by simp [Arch.tick_eq]⟩

/-- The commands that clear the counters: RESET, and START where the response says that it succeeded. -/
def Clears (i : Instr) (header : Word) : Prop := i = .reset ∨ (i = .start ∧ header = 0x00000200#32)

/-- The PKT field of a result's header. -/
theorem ok_header_pkt (o : Opcode) (a : Arch) (r : Reply) :
    (CmdResult.header o (.ok a r)).extractLsb' 6 1 = BitVec.ofBool r.pkt :=
  (rspHeader_rc _ o r.pkt r.bit r.valid .ok).2

theorem raise_header_pkt (o : Opcode) (rc : ResultCode) :
    (CmdResult.header o (.raise rc)).extractLsb' 6 1 = BitVec.ofBool false :=
  (rspHeader_rc _ o false false false rc).2

/-- An error response is not that of a successful START: its RC field is not OK. -/
theorem raise_header_ne_started {o : Opcode} {rc : ResultCode} (h : rc ≠ .ok) :
    CmdResult.header o (.raise rc) ≠ 0x00000200#32 := by
  intro e
  have code := (rspHeader_raise o rc).2.2.2.2.1
  change (CmdResult.header o (.raise rc)).extractLsb' 0 4 = rcValue rc at code
  rw [e] at code
  cases rc with
  | ok => exact h rfl
  | _ => exact absurd code (by decide)

theorem CommandEnds.counters {i : Instr} {a : Arch} {r : CmdResult} (h : CommandEnds i a r) :
    (Clears i (r.header i.opcode) ∧ (r.leaves a).sampleCount = 0 ∧ (r.leaves a).packetCount = 0 ∧
      (r.leaves a).pktSampleIndex = 0) ∨
    (¬Clears i (r.header i.opcode) ∧ ∃ pkt, (r.header i.opcode).extractLsb' 6 1 = BitVec.ofBool pkt ∧
      CountersMove i a (r.leaves a) pkt) := by
  cases h with
  | reset command => exact .inl ⟨.inl command, rfl, rfl, rfl⟩
  | started command => exact .inl ⟨.inr ⟨command, by subst command; rfl⟩, rfl, rfl, rfl⟩
  | refused rc command error unsampled =>
    refine .inr ⟨?_, false, raise_header_pkt _ _, .refl unsampled⟩
    rintro (e | ⟨-, e⟩)
    · exact command e
    · exact raise_header_ne_started error e
  | stored n c d command =>
    subst command
    refine .inr ⟨by simp [Clears], false, ok_header_pkt _ _ _, ?_⟩
    rw [CmdResult.leaves, csrStore_frame]
    exact ⟨by simp [takesSample], rfl, by simp⟩
  | read r command silent =>
    have idle : i ≠ .reset ∧ i ≠ .start ∧ takesSample i = false := by
      rcases command with rfl | ⟨n, rfl⟩ | h
      · simp [takesSample]
      · simp [takesSample]
      · cases i <;> simp_all [inspects, takesSample]
    refine .inr ⟨by simp [Clears, idle], r.pkt, ok_header_pkt _ _ _, ?_⟩
    exact silent ▸ .refl (by simp [idle])
  | worked b r run work =>
    exact .inr ⟨by simp [Clears, work.command_ne], r.pkt, ok_header_pkt _ _ _, work.countersMove run⟩
  | diverged b run work =>
    refine .inr ⟨by simp [Clears, work.command_ne], false, raise_header_pkt _ .diverged, ?_⟩
    obtain ⟨samples, packets, index⟩ := work.countersMove run
    exact ⟨samples, packets, index⟩

/-- Settles O24, from the two ways the counters move. -/
theorem countersCount : Obligations.CountersCount := by
  unfold Obligations.CountersCount
  intro i s t h
  obtain rfl := exec_eq_next_iff.mp h
  refine ⟨_, _, rfl, ?_⟩
  rcases (commandResult_ends i s.arch).counters with ⟨clears, cleared⟩ | ⟨holds, pkt, field, moves⟩
  · exact ⟨fun _ => cleared, fun n => absurd clears n⟩
  · refine ⟨fun c => absurd c holds, fun _ => ?_⟩
    rw [field]
    have flag : BitVec.ofBool pkt = 1#1 ↔ pkt = true := by cases pkt <;> decide
    simp only [flag]
    exact ⟨moves.sampleCount, moves.packetCount, moves.pktSampleIndex⟩

end Sys2Proof.Machine
end

