-- ==== Sys2Proof/Proofs/StateInvariant.lean ====
section
/-! Every step keeps the invariant of the state: each unit keeps it in RUN, so every command does, and a step
is a command, a reset, or no change of the block's state. -/

namespace Sys2Proof.Safety

open Sys2Proof.Machine

/-! ## The units keep the invariant -/

section
variable {a : Arch}

theorem ArchInv.advanceBy (h : ArchInv a) (hl : a.lifecycle ≠ .config) (d : Word) :
    ArchInv (a.advanceBy d).1 := by
  obtain ⟨sized, -, -, -, -, correlator, packetizer⟩ := id h
  exact h.of_frame hl (by simp) (by simp) (by simp) (by simpa [BuffersSized] using sized)
    (by simpa [CorrelatorOk] using correlator) (by simpa [PacketizerOk] using packetizer)

/-- A synchronizer step pushes to IH where its clock overran, and only then (47 R220 step 3). -/
theorem ssStep_ih_cases (a : Arch) (x : Cplx) :
    (a.ssStep x).1.ih = a.ih ∨ ∃ y, (a.ssStep x).1.ih = a.ih.push Config.ihDepth y := by
  cases hv : (a.pushRaw x).tick.2 with
  | none => rw [Arch.ssStep_none hv]; exact .inl (by simp [Arch.tick_eq])
  | some v =>
    have filtered : (syncFiltered (a.pushRaw x).tick.1 v).1.ih = a.ih.push Config.ihDepth
        (interpolate (a.pushRaw x).tick.1.raw (fdiv v Config.tau)) := by
      simp [syncFiltered, Arch.tick_eq]
    rw [Arch.ssStep_some hv]
    refine .inr ⟨interpolate (a.pushRaw x).tick.1.raw (fdiv v Config.tau), ?_⟩
    rcases Arch.syncCorrect_cases (a.pushRaw x).tick.1 v with ⟨w, -, e⟩ | ⟨-, e⟩
    · rw [e, Arch.advanceBy_ih, filtered]
    · rw [e, Arch.toggleGate_ih, Arch.advanceBy_ih, filtered]

theorem ssStep_buffersSized {x : Cplx} (h : BuffersSized a) : BuffersSized (a.ssStep x).1 := by
  obtain ⟨rawSize, rawCur, ihSize, ihCur, ehSize⟩ := h
  have raw := Arch.ssStep_raw a x
  refine ⟨by simp [raw, rawSize], raw ▸ CBuf.push_cur_lt (by decide), ?_, ?_, by simpa using ehSize⟩
  · rcases ssStep_ih_cases a x with e | ⟨y, e⟩ <;> simp [e, ihSize]
  · rcases ssStep_ih_cases a x with e | ⟨y, e⟩
    · exact e ▸ ihCur
    · exact e ▸ CBuf.push_cur_lt (by decide)

theorem ArchInv.ssStep (h : ArchInv a) (hl : a.lifecycle ≠ .config) (x : Cplx) :
    ArchInv (a.ssStep x).1 := by
  obtain ⟨sized, -, -, -, -, correlator, packetizer⟩ := id h
  exact h.of_frame hl (by simp) (by simp) (by simp) (ssStep_buffersSized sized)
    (by simpa [CorrelatorOk] using correlator) (by simpa [PacketizerOk] using packetizer)

/-- A symbol moves EH_CUR in its ring and leaves the slots N and above (48 R241). -/
theorem ArchInv.corrStep (h : ArchInv a) (hl : a.lifecycle ≠ .config) (s : Bool) :
    ArchInv (a.corrStep s).1 := by
  obtain ⟨⟨rawSize, rawCur, ihSize, ihCur, ehSize⟩, -, legal, -, -, correlator, packetizer⟩ := id h
  obtain ⟨cur, zero⟩ := correlator hl
  obtain ⟨-, n64, -⟩ := startLegal_bounds (legal hl)
  refine h.of_frame hl rfl rfl rfl ⟨rawSize, rawCur, ihSize, ihCur, ?_⟩ (fun _ => ⟨?_, fun i hi => ?_⟩)
    packetizer
  · rw [Arch.corrStep_eh, corrPush_length, ehSize]
  · rw [Arch.corrStep_eh, corrPush_cur]
    exact Nat.mod_lt _ (Nat.zero_lt_of_lt cur)
  · rw [Arch.corrStep_eh, corrPush_slotVal_ge cur (by rw [ehSize]; exact n64) _ _ hi, zero i hi]

theorem ArchInv.corrReset (h : ArchInv a) (hl : a.lifecycle ≠ .config) : ArchInv a.corrReset.1 := by
  obtain ⟨⟨rawSize, rawCur, ihSize, ihCur, ehSize⟩, -, -, -, -, correlator, packetizer⟩ := id h
  obtain ⟨cur, zero⟩ := correlator hl
  refine h.of_frame hl rfl rfl rfl ⟨rawSize, rawCur, ihSize, ihCur, ?_⟩ (fun _ => ⟨cur, fun i hi => ?_⟩)
    packetizer
  · rw [Arch.corrReset_eh_length, ehSize]
  · have above : ¬ i < a.syncN := Nat.not_lt.mpr hi
    by_cases inside : i < a.eh.data.length
    · rw [Arch.corrReset_slotVal a inside, if_neg above, zero i hi]
    · exact List.getD_eq_default _ _ (by simpa using inside)

/-- A write of one of the payload's L bits leaves the others as they are (48 R245). -/
theorem setBit_above {w l i j : Nat} {v : BitVec w} {b : Bool} (hi : i < l) (hj : l ≤ j) :
    (setBit v i b).getLsbD j = v.getLsbD j := by
  rw [getLsbD_setBit, if_neg (by omega)]

theorem ArchInv.pktStep (h : ArchInv a) (hl : a.lifecycle ≠ .config) (s : Bool) :
    ArchInv (a.pktStep s).1 := by
  obtain ⟨sized, -, -, -, -, correlator, -, -, payload⟩ := id h
  obtain ⟨inPacket, clear⟩ := payload hl
  have written : ∀ i, a.pktL ≤ i → (setBit a.payload a.capidx s).getLsbD i = false := fun i hi => by
    rw [setBit_above inPacket hi, clear i hi]
  rcases Arch.pktStep_cases a s with ⟨-, -, e⟩ | ⟨-, -, e⟩ | ⟨capturing, more, e⟩ | ⟨-, -, e⟩
  · rw [e]
    exact h.corrStep hl s
  · have c := (h.corrStep hl s).corrReset hl
    obtain ⟨sized', -, -, -, -, correlator', -⟩ := id c
    rw [e]
    exact c.of_frame hl rfl rfl rfl sized' correlator'
      ⟨nofun, nofun, fun _ => ⟨Nat.zero_lt_of_lt inPacket, clear⟩⟩
  · obtain ⟨-, -, -, -, -, -, -, available, -⟩ := id h
    rw [e]
    refine h.of_frame hl rfl rfl rfl sized correlator ⟨?_, available, fun _ => ⟨?_, written⟩⟩
    · exact fun scanning => absurd (scanning.symm.trans capturing) (by decide)
    · exact Nat.lt_of_le_of_ne inPacket more
  · rw [e]
    exact h.of_frame hl rfl rfl rfl sized correlator
      ⟨fun _ => rfl, fun _ => rfl, fun _ => ⟨Nat.zero_lt_of_lt inPacket, written⟩⟩

/-- Descrambling writes the payload's L bits only (49 R263). -/
theorem ArchInv.descramble (h : ArchInv a) (hl : a.lifecycle ≠ .config) : ArchInv a.descramble := by
  obtain ⟨sized, -, -, -, -, correlator, scanning, available, payload⟩ := id h
  obtain ⟨inPacket, clear⟩ := payload hl
  refine h.of_frame hl rfl rfl rfl sized correlator
    ⟨scanning, available, fun _ => ⟨inPacket, fun i hi => ?_⟩⟩
  have above : ¬(0 ≤ i ∧ i < 0 + a.pktL ∧ i < 8192) := by
    have : a.pktL ≤ i := hi
    omega
  exact (descrambleFrom_bit _ _ _ _ _ _).trans ((if_neg above).trans (clear i hi))

theorem ArchInv.chainStep (h : ArchInv a) (hl : a.lifecycle ≠ .config) (sample : BitVec 64) (bit : Bool) :
    ArchInv (a.chainStep sample bit).1 := by
  have p := h.pktStep hl bit
  rcases Arch.chainStep_cases a sample bit with ⟨-, e⟩ | ⟨-, e⟩
  · rw [e]
    exact p
  · have hl' : (a.pktStep bit).1.lifecycle ≠ .config := by simpa using hl
    have d := p.descramble hl'
    obtain ⟨sized, -, -, -, -, correlator, packetizer⟩ := id d
    rw [e]
    exact d.of_frame hl' rfl rfl rfl sized correlator packetizer

theorem ArchInv.countSample (h : ArchInv a) (hl : a.lifecycle ≠ .config) : ArchInv a.countSample := by
  obtain ⟨sized, -, -, -, -, correlator, packetizer⟩ := id h
  exact h.of_frame hl rfl rfl rfl sized correlator packetizer

/-- The work of every class M command keeps the invariant. -/
theorem ArchInv.unitWork {b : Arch} {i : Instr} {pkt : Bool} (h : ArchInv a) (run : a.lifecycle = .run)
    (w : UnitWork a i b pkt) : ArchInv b := by
  have hl : a.lifecycle ≠ .config := by rw [run]; decide
  obtain ⟨sized, -, -, -, -, correlator, packetizer⟩ := id h
  cases w with
  | pcTick => exact h.advanceBy hl _
  | pcAdv d => exact h.advanceBy hl _
  | corrTick imm => exact h.corrStep hl _
  | corrReset => exact h.corrReset hl
  | pktTick imm => exact h.pktStep hl _
  | descramble => exact h.descramble hl
  | ssTick re im | rxSync re im => exact (h.countSample hl).ssStep hl _
  | rxChain re im bit => exact ((h.countSample hl).ssStep hl _).chainStep (by simpa using hl) _ _
  | piUpdate | agcTick | lfsrNext | lfsrSeed =>
    exact h.of_frame hl rfl rfl rfl sized correlator packetizer

end

/-! ## Commands and steps keep it -/

theorem archInv_reset : ArchInv Arch.reset :=
  ⟨⟨by simp [Arch.reset], by decide, by simp [Arch.reset], by decide, by simp [Arch.reset]⟩, rfl,
    (absurd rfl ·), (absurd rfl ·), fun _ => rfl, (absurd rfl ·), fun _ => rfl, nofun, (absurd rfl ·)⟩

/-- In CONFIG a write of the configuration leaves everything else unconstructed (40 R125, R126). -/
theorem ArchInv.csrStore {a : Arch} (h : ArchInv a) (hc : a.lifecycle = .config) (c : Csr) (d : Word) :
    ArchInv (csrStore a c d) := by
  obtain ⟨sized, fault, -, -, units, -, scanning, available, -⟩ := h
  have config : (Machine.csrStore a c d).lifecycle = .config := by rw [csrStore_frame]; exact hc
  have unit : UnitsUnconstructed (Machine.csrStore a c d) := fun _ => by
    rw [csrStore_frame, units hc]
  refine ⟨?_, ?_, (absurd config ·), (absurd config ·), unit, (absurd config ·), ?_, ?_, (absurd config ·)⟩
  · rw [csrStore_frame]; exact sized
  · rw [csrStore_frame]; exact fault
  · rw [csrStore_frame]; exact scanning
  · rw [csrStore_frame]; exact available

theorem ArchInv.leaves {a : Arch} {i : Instr} {r : CmdResult} (h : ArchInv a) (ends : CommandEnds i a r) :
    ArchInv (r.leaves a) := by
  cases ends with
  | refused | read => exact h
  | reset => exact archInv_reset
  | started _ _ legal => exact .construct legal
  | stored n c d _ config => exact h.csrStore config c d
  | worked b r run work => exact h.unitWork run work
  | diverged b run work =>
    exact (h.unitWork run work).takeDivergence (work.lifecycle_eq.trans run)

/-- The words of a rejected or incomplete command keep the framing rule (20 R62). -/
theorem frameError_keeps_inv {s : State} {ws : List Word} {e : DecodeError} (h : Inv s)
    (hd : decode ws = .error e) : Inv (s.frameError ws e) := by
  obtain ⟨arch, frame⟩ := h
  cases e with
  | noHeader => exact ⟨arch, frame⟩
  | truncated => exact ⟨arch, .inr hd⟩
  | illegalOpcode | reservedField => exact ⟨arch, .inl rfl⟩

/-- Settles O15, for each thing a step can do. -/
theorem stepKeepsInvariant : Obligations.StepKeepsInvariant := by
  unfold Obligations.StepKeepsInvariant
  intro s t inv h
  obtain ⟨arch, frame⟩ := id inv
  rcases step_cases s with
    ⟨-, e⟩ | ⟨es, -, e⟩ | ⟨es, -, e⟩ | ⟨w, es, i, rest, -, -, e⟩ | ⟨w, es, err, -, hd, e⟩
  · obtain rfl := Host.Outcome.next.inj (e.symm.trans h)
    exact inv
  · obtain rfl := Host.Outcome.next.inj (e.symm.trans h)
    exact ⟨archInv_reset, .inl rfl⟩
  · obtain rfl := Host.Outcome.next.inj (e.symm.trans h)
    exact ⟨arch, frame⟩
  · rw [finish_eq_answered] at e
    obtain rfl := Host.Outcome.next.inj (e.symm.trans h)
    exact ⟨arch.leaves (commandResult_ends i s.arch), .inl rfl⟩
  · obtain rfl := Host.Outcome.next.inj (e.symm.trans h)
    exact frameError_keeps_inv ⟨arch, frame⟩ hd

end Sys2Proof.Safety
end

