-- ==== Sys2Proof/Proofs/Ports.lean ====
section
/-! The words on the two ports and the commands that read: what a step does for each port event, and that a
read answers from the block's state and leaves it (20 R61 to R64, R69). -/

namespace Sys2Proof.Machine

open Sys2Proof.Safety

/-! ## One step for each port event -/

section
variable {s : State} {es : List PortEvent}

theorem step_of_idle (h : s.cmdPort = []) : step s = .next s := by simp [step, h]

theorem step_of_rspReady (h : s.cmdPort = .rspReady :: es) :
    step s = .next (s.advancePort es).takeResponse := by simp [step, h]

theorem step_of_accepted {w : Word} {i : Instr} {rest : List Word} (h : s.cmdPort = .word w :: es)
    (hd : decode (s.frameWith w) = .ok (i, rest)) : step s = exec i (s.advancePort es).endFrame := by
  simp [step, h, hd]

theorem step_of_rejected {w : Word} {e : DecodeError} (h : s.cmdPort = .word w :: es)
    (hd : decode (s.frameWith w) = .error e) :
    step s = .next ((s.advancePort es).frameError (s.frameWith w) e) := by
  simp [step, h, hd]

end

/-- Settles O5: too few data words decode to `truncated`, for which the words taken are kept. -/
theorem incompleteCommandsWait : Obligations.IncompleteCommandsWait := by
  unfold Obligations.IncompleteCommandsWait
  intro s w h ds es port words short
  have frame : s.frameWith w = h :: ds := words
  have truncated : decode (s.frameWith w) = .error .truncated := frame ▸ decode_truncated short
  rw [step_of_rejected port truncated, frame]
  rfl

/-- Settles O8. -/
theorem stepRunsDecodedCommand : Obligations.StepRunsDecodedCommand := by
  unfold Obligations.StepRunsDecodedCommand
  intro s w es i rest port accepted
  exact step_of_accepted port accepted

/-- Settles O10: dropping one word is taking the tail, of an empty list too. -/
theorem responsesLeaveInOrder : Obligations.ResponsesLeaveInOrder := by
  unfold Obligations.ResponsesLeaveInOrder
  refine ⟨fun s es port => ?_, fun s idle => step_of_idle idle⟩
  rw [step_of_rspReady port, List.drop_one]
  rfl

/-! ## The commands that read (20 R69) -/

/-- Only class M commands work on a unit (30 R89). -/
theorem UnitWork.mutates {a b : Arch} {i : Instr} {pkt : Bool} (w : UnitWork a i b pkt) :
    Safety.mutates i = true := by
  cases w <;> rfl

theorem mutates_eq_false_of_reads {i : Instr} (hi : inspects i = true ∨ ∃ n, i = .csrRd n) :
    mutates i = false := by
  obtain hi | ⟨n, rfl⟩ := hi
  · cases i with
    | cbRds | cbRdu | pcSin | pcCos | pcPhasor | interp | ted | pktRdw => rfl
    | _ => cases hi
  · rfl

/-- A command that reads is refused or answers; it never writes the configuration, constructs the units or
works on one. -/
theorem CommandEnds.leaves_of_reads {i : Instr} {a : Arch} {r : CmdResult} (h : CommandEnds i a r)
    (hi : inspects i = true ∨ ∃ n, i = .csrRd n) : r.leaves a = a := by
  have noWork : ∀ {b pkt}, ¬UnitWork a i b pkt := fun work =>
    Bool.eq_false_iff.mp (mutates_eq_false_of_reads hi) work.mutates
  cases h with
  | refused | read => rfl
  | reset command | started command | stored _ _ _ command => subst command; simp [inspects] at hi
  | worked b r run work => exact absurd work noWork
  | diverged b run work => exact absurd work noWork

/-- The answer of a read is the result on the block's state, which is left as it was. -/
theorem exec_of_reads {i : Instr} (hi : inspects i = true ∨ ∃ n, i = .csrRd n) (s : State) :
    exec i s = .next (answered s s.arch
      ((commandResult i s.arch).header i.opcode :: (commandResult i s.arch).words)) := by
  rw [exec_eq_finish, finish_eq_answered, (commandResult_ends i s.arch).leaves_of_reads hi]

/-- Settles O22: the second read finds the block in the state in which the first found it. -/
theorem readsHaveNoSideEffect : Obligations.ReadsHaveNoSideEffect := by
  unfold Obligations.ReadsHaveNoSideEffect
  intro i s hi
  exact ⟨_, exec_of_reads hi s, exec_of_reads hi (answered s s.arch _)⟩

end Sys2Proof.Machine
end

section
/-! The encoder and the decoder are inverse to each other, and the decoder follows the match and mask table
(30 R80 to R91): what an accepted header's fields are, what command the decoder builds from them, and which
headers meet a row's mask and match. -/

namespace Sys2Proof

/-! ## Fields of an accepted header -/

/-- What the decoder demands of a header (30 R83, R85, R86, R91). -/
theorem fieldsOk_iff {o : Opcode} {h : Word} :
    fieldsOk o h = true ↔ hdrRsv h = 0#2 ∧ hdrLen h = o.ndata ∧
      (o.usesSel = true ∨ hdrSel h = 0#4) ∧ immOk o.immForm (hdrImm h) = true := by
  simp [fieldsOk, and_assoc]

/-- The two bits of LEN hold every NDATA. -/
theorem hdrLen_eq_ndata_iff {o : Opcode} {h : Word} :
    hdrLen h = o.ndata ↔ h.extractLsb' 12 2 = BitVec.ofNat 2 o.ndata := by
  rw [hdrLen, ← BitVec.toNat_inj, BitVec.toNat_ofNat, Nat.mod_eq_of_lt (ndata_lt o)]

/-- A command whose operation has no SEL encodes a SEL of 0 (30 R85). -/
theorem sel_eq_zero_of_unused {i : Instr} (h : i.opcode.usesSel = false) : i.sel = 0#4 := by
  cases i with
  | cbRds | cbRdu => cases h
  | _ => rfl

/-- The unused-bit rule of the IMM form is all that well-formedness asks (30 R86). -/
theorem immOk_imm (i : Instr) : immOk i.opcode.immForm i.imm = i.wellFormed := by
  cases i <;> rfl

theorem fieldsOk_header {i : Instr} (wf : i.wellFormed = true) : fieldsOk i.opcode i.header = true := by
  obtain ⟨-, len, rsv, sel, imm⟩ := Laws.headerFields_all i
  refine fieldsOk_iff.mpr ⟨rsv, len, ?_, by rw [imm, immOk_imm, wf]⟩
  cases unused : i.opcode.usesSel with
  | true => exact .inl rfl
  | false => exact .inr (sel.trans (sel_eq_zero_of_unused unused))

/-! ## The command built from a header -/

/-- From its own fields and data words, a command is built again; the words after them are not read. -/
theorem buildInstr_of_fields {i : Instr} {h : Word} (rest : List Word)
    (sel : hdrSel h = i.sel) (imm : hdrImm h = i.imm) :
    buildInstr i.opcode h (dataWord (i.dataWords ++ rest) 0) (dataWord (i.dataWords ++ rest) 1) = i := by
  cases i <;> simp_all [buildInstr, Instr.opcode, Instr.sel, Instr.imm, Instr.dataWords, dataWord]

section
variable (o : Opcode) (h d0 d1 : Word)

@[simp] theorem opcode_buildInstr : (buildInstr o h d0 d1).opcode = o := by cases o <;> rfl

theorem dataWords_buildInstr : (buildInstr o h d0 d1).dataWords = [d0, d1].take o.ndata := by
  cases o <;> rfl

variable {o h}

theorem sel_buildInstr (ok : o.usesSel = true ∨ hdrSel h = 0#4) : (buildInstr o h d0 d1).sel = hdrSel h := by
  cases o with
  | cbRds | cbRdu => rfl
  | _ => exact (ok.resolve_left Bool.false_ne_true).symm

/-- The zero form is the one whose IMM the command does not keep (30 R86). -/
theorem imm_buildInstr (ok : immOk o.immForm (hdrImm h) = true) : (buildInstr o h d0 d1).imm = hdrImm h := by
  cases o with
  | csrRd | csrWr | cbRds | cbRdu | corrTick | pktTick | pktRdw => rfl
  | _ => exact (beq_iff_eq.mp ok).symm

theorem wellFormed_buildInstr (ok : immOk o.immForm (hdrImm h) = true) :
    (buildInstr o h d0 d1).wellFormed = true := by
  rw [← immOk_imm, opcode_buildInstr, imm_buildInstr d0 d1 ok, ok]

/-- An accepted header is the header of the command built from it: no bit is ignored (30 R91). -/
theorem header_buildInstr (ok : fieldsOk o h = true) (opc : o.byte = hdrOpc h) :
    (buildInstr o h d0 d1).header = h := by
  obtain ⟨rsv, len, sel, imm⟩ := fieldsOk_iff.mp ok
  rw [Instr.header, opcode_buildInstr, imm_buildInstr d0 d1 imm, sel_buildInstr d0 d1 sel, opc,
    ← hdrLen_eq_ndata_iff.mp len, mkHeader_eta h rsv]

end

/-- The decoder reads the first NDATA words, of which there are at most two (30 R88). -/
theorem take_dataWord {ws : List Word} {o : Opcode} (hl : o.ndata ≤ ws.length) :
    [dataWord ws 0, dataWord ws 1].take o.ndata = ws.take o.ndata := by
  have two : o.ndata ≤ 2 := by cases o <;> decide
  rcases ws with _ | ⟨a, _ | ⟨b, ws⟩⟩
  · rw [Nat.le_zero.mp hl]; rfl
  · have : o.ndata = 0 ∨ o.ndata = 1 := Nat.le_one_iff_eq_zero_or_eq_one.mp hl
    rcases this with n | n <;> rw [n] <;> rfl
  · exact (List.take_append_of_le_length (l₁ := [a, b]) (l₂ := ws) two).symm

/-! ## Both directions -/

/-- Settles O1: the header's fields are accepted, and the command is built again from them. -/
theorem decodeEncodeRoundTrip : Obligations.DecodeEncodeRoundTrip := by
  unfold Obligations.DecodeEncodeRoundTrip
  intro i rest wf
  obtain ⟨opc, len, -, sel, imm⟩ := Laws.headerFields_all i
  have framed : hdrLen i.header ≤ (i.dataWords ++ rest).length := by simp [len]
  have row : opcodeOf (hdrOpc i.header) = some i.opcode := by rw [opc, opcodeOf_byte]
  have accepted : decode (i.header :: (i.dataWords ++ rest)) = _ :=
    decode_accepted framed row (fieldsOk_header wf)
  rw [encode, List.cons_append, accepted, buildInstr_of_fields rest sel imm, len, ← dataWords_length,
    List.drop_left]

/-- Every accepted list of words is an accepted header, its data words and the rest. -/
theorem decode_eq_ok_iff {h : Word} {ws rest : List Word} {i : Instr} :
    decode (h :: ws) = .ok (i, rest) ↔
      ∃ o, hdrLen h ≤ ws.length ∧ opcodeOf (hdrOpc h) = some o ∧ fieldsOk o h = true ∧
        i = buildInstr o h (dataWord ws 0) (dataWord ws 1) ∧ rest = ws.drop (hdrLen h) := by
  constructor
  · intro hd
    rcases decode_cases h ws with ⟨-, e⟩ | ⟨-, -, e⟩ | ⟨o, -, -, -, e⟩ | ⟨o, hl, row, ok, e⟩
    · cases e.symm.trans hd
    · cases e.symm.trans hd
    · cases e.symm.trans hd
    · cases e.symm.trans hd
      exact ⟨o, hl, row, ok, rfl, rfl⟩
  · rintro ⟨o, hl, row, ok, rfl, rfl⟩
    exact decode_accepted hl row ok

/-- Settles O2: the header is that of the command built from it, and the data words are the first NDATA of the
words after it. -/
theorem decodeAcceptsOnlyEncodings : Obligations.DecodeAcceptsOnlyEncodings := by
  unfold Obligations.DecodeAcceptsOnlyEncodings
  intro ws rest i hd
  cases ws with
  | nil => cases hd
  | cons h ds =>
    obtain ⟨o, hl, row, ok, rfl, rfl⟩ := decode_eq_ok_iff.mp hd
    obtain ⟨-, len, -, imm⟩ := fieldsOk_iff.mp ok
    refine ⟨wellFormed_buildInstr _ _ imm, ?_⟩
    rw [encode, header_buildInstr _ _ ok (byte_of_opcodeOf row), dataWords_buildInstr,
      take_dataWord (len ▸ hl), len, List.cons_append, List.take_append_drop]

/-! ## Mask and match -/

/-- The bits of IMM that a form fixes to 0 (30 R86). -/
def ImmForm.mask : ImmForm → BitVec 16
  | .zero => 0xFFFF#16
  | .csr | .s16 | .u16 => 0#16
  | .bit => 0xFFFE#16

theorem immOk_iff_mask (f : ImmForm) (imm : BitVec 16) : immOk f imm = true ↔ imm &&& f.mask = 0#16 := by
  cases f with
  | zero =>
    have ones : imm &&& 0xFFFF#16 = imm := BitVec.and_allOnes
    simp [immOk, ImmForm.mask, ones]
  | csr | s16 | u16 => simp [immOk, ImmForm.mask]
  | bit =>
    have upper : imm &&& 0xFFFE#16 = imm.extractLsb' 1 15 ++ 0#1 :=
      calc imm &&& 0xFFFE#16
          = (imm.extractLsb' 1 15 ++ imm.extractLsb' 0 1) &&& (BitVec.allOnes 15 ++ 0#1) := by
            rw [BitVec.extractLsb'_append_extractLsb'_eq_extractLsb' (start₂ := 1) (start₁ := 0) rfl,
              BitVec.extractLsb'_eq_self]
            rfl
        _ = imm.extractLsb' 1 15 ++ 0#1 := by
            rw [BitVec.and_append, BitVec.and_allOnes, BitVec.and_zero]
    rw [immOk, ImmForm.mask, beq_iff_eq, upper, show 0#16 = 0#15 ++ 0#1 from rfl, BitVec.append_left_inj]

/-- Words that agree in a field agree in its bits. -/
theorem getLsbD_eq_of_extractLsb'_eq {x y : Word} {start len k : Nat}
    (e : x.extractLsb' start len = y.extractLsb' start len) (hs : start ≤ k) (hk : k < start + len) :
    x.getLsbD k = y.getLsbD k := by
  have bit := congrArg (·.getLsbD (k - start)) e
  simpa [show k - start < len by omega, show start + (k - start) = k by omega] using bit

/-- Two headers are equal where their five fields are (30 R80). -/
theorem header_ext_iff {x y : Word} :
    x = y ↔ hdrOpc x = hdrOpc y ∧ hdrSel x = hdrSel y ∧ x.extractLsb' 12 2 = y.extractLsb' 12 2 ∧
      hdrRsv x = hdrRsv y ∧ hdrImm x = hdrImm y := by
  refine ⟨by rintro rfl; simp, fun ⟨opc, sel, len, rsv, imm⟩ => BitVec.eq_of_getLsbD_eq fun k hk => ?_⟩
  have field : k < 8 ∨ 8 ≤ k ∧ k < 12 ∨ 12 ≤ k ∧ k < 14 ∨ 14 ≤ k ∧ k < 16 ∨ 16 ≤ k := by omega
  rcases field with h | ⟨l, h⟩ | ⟨l, h⟩ | ⟨l, h⟩ | l
  · exact getLsbD_eq_of_extractLsb'_eq opc (Nat.zero_le k) h
  · exact getLsbD_eq_of_extractLsb'_eq sel l h
  · exact getLsbD_eq_of_extractLsb'_eq len l h
  · exact getLsbD_eq_of_extractLsb'_eq rsv l h
  · exact getLsbD_eq_of_extractLsb'_eq imm l hk

section
variable (x y : Word)

theorem hdrOpc_and : hdrOpc (x &&& y) = hdrOpc x &&& hdrOpc y := BitVec.extractLsb'_and
theorem hdrSel_and : hdrSel (x &&& y) = hdrSel x &&& hdrSel y := BitVec.extractLsb'_and
theorem hdrRsv_and : hdrRsv (x &&& y) = hdrRsv x &&& hdrRsv y := BitVec.extractLsb'_and
theorem hdrImm_and : hdrImm (x &&& y) = hdrImm x &&& hdrImm y := BitVec.extractLsb'_and

end

/-- The bits of SEL that must be 0 (30 R85). -/
def Opcode.selMask (o : Opcode) : BitVec 4 := if o.usesSel then 0#4 else 0xF#4

theorem and_selMask_eq_zero_iff (o : Opcode) (sel : BitVec 4) :
    sel &&& o.selMask = 0#4 ↔ o.usesSel = true ∨ sel = 0#4 := by
  have ones : sel &&& 0xF#4 = sel := BitVec.and_allOnes
  cases h : o.usesSel <;> simp [Opcode.selMask, h, ones]

/-- A row's match is its OPC and NDATA (30 R88). -/
theorem match_eq_mkHeader (o : Opcode) :
    o.matchMask.1 = mkHeader 0#16 (BitVec.ofNat 2 o.ndata) 0#4 o.byte := by
  cases o <;> rfl

/-- A row's mask has OPC, LEN and RSV, and of SEL and IMM the bits that must be 0 (30 R88). -/
theorem fields_mask (o : Opcode) :
    hdrOpc o.matchMask.2 = BitVec.allOnes 8 ∧ hdrSel o.matchMask.2 = o.selMask ∧
      o.matchMask.2.extractLsb' 12 2 = BitVec.allOnes 2 ∧ hdrRsv o.matchMask.2 = BitVec.allOnes 2 ∧
      hdrImm o.matchMask.2 = o.immForm.mask := by
  cases o <;> decide

/-- A header meets a row's mask and match exactly where it has its OPC and violates no reserved field. -/
theorem meets_matchMask_iff (h : Word) (o : Opcode) :
    h &&& o.matchMask.2 = o.matchMask.1 ↔ hdrOpc h = o.byte ∧ fieldsOk o h = true := by
  obtain ⟨opc, sel, len, rsv, imm⟩ := fields_mask o
  have len_mkHeader : ∀ n, (mkHeader 0#16 n 0#4 o.byte).extractLsb' 12 2 = n := fun n =>
    BitVec.toNat_inj.mp (hdrLen_mkHeader ..)
  rw [match_eq_mkHeader, header_ext_iff, hdrOpc_and, hdrSel_and, BitVec.extractLsb'_and, hdrRsv_and,
    hdrImm_and, opc, sel, len, rsv, imm, hdrOpc_mkHeader, hdrSel_mkHeader, len_mkHeader, hdrRsv_mkHeader,
    hdrImm_mkHeader, BitVec.and_allOnes, BitVec.and_allOnes, BitVec.and_allOnes,
    fieldsOk_iff, hdrLen_eq_ndata_iff, ← and_selMask_eq_zero_iff, immOk_iff_mask]
  tauto

/-- Settles O3: decoding gives the operation of the header's OPC, whose reserved fields it has checked. -/
theorem decodeFollowsMatchAndMask : Obligations.DecodeFollowsMatchAndMask := by
  unfold Obligations.DecodeFollowsMatchAndMask
  intro h ds o hl
  rw [meets_matchMask_iff]
  constructor
  · rintro ⟨i, rest, hd, rfl⟩
    obtain ⟨o, -, row, ok, rfl, -⟩ := decode_eq_ok_iff.mp hd
    rw [opcode_buildInstr]
    exact ⟨(byte_of_opcodeOf row).symm, ok⟩
  · rintro ⟨opc, ok⟩
    exact ⟨_, _, decode_accepted hl (opc ▸ opcodeOf_byte o) ok, opcode_buildInstr ..⟩

/-- Settles O4, by running the decoder on each list of words. -/
theorem specWordsDecode : Obligations.SpecWordsDecode := by
  unfold Obligations.SpecWordsDecode
  decide

end Sys2Proof
end

section
/-! What a rejected command answers (30 R90, R91; 60 R281 to R283): the decoder's table is the table of the
claims, and a rejected frame sends one error response and changes nothing but the ports. -/

namespace Sys2Proof.Machine

open Sys2Proof.Safety

/-! ## The command table -/

/-- The row of an operation in the command table. -/
def tableRow (o : Opcode) : BitVec 8 × Nat × Bool × ImmForm := (o.byte, o.ndata, o.usesSel, o.immForm)

theorem commandTable_eq_map : commandTable = Opcode.all.map tableRow := rfl

/-- The decoder finds no operation exactly where no row has the OPC (30 R90). -/
theorem opcodeOf_eq_none_iff {b : BitVec 8} : opcodeOf b = none ↔ ∀ r ∈ commandTable, r.1 ≠ b := by
  simp [opcodeOf, commandTable_eq_map, tableRow]

/-- Each row of the table is that of the operation the decoder finds by its OPC. -/
theorem exists_opcode_of_row {r : BitVec 8 × Nat × Bool × ImmForm} (hr : r ∈ commandTable) :
    ∃ o, opcodeOf r.1 = some o ∧ r = tableRow o := by
  obtain ⟨o, -, rfl⟩ := List.mem_map.mp (commandTable_eq_map ▸ hr)
  exact ⟨o, opcodeOf_byte o, rfl⟩

/-- The bits that the bit form reserves, counted in the header (30 R86). -/
theorem hdrImm_upper (h : Word) : (hdrImm h).extractLsb' 1 15 = h.extractLsb' 17 15 := by
  ext k hk
  have inside : 1 + k < 16 := by omega
  simp [hdrImm, inside, ← Nat.add_assoc]

/-- Any one violation of 30 R91 fails the check of the fields. -/
theorem fieldsOk_eq_false {o : Opcode} {h : Word}
    (violated : hdrRsv h ≠ 0#2 ∨ hdrLen h ≠ o.ndata ∨ (o.usesSel = false ∧ hdrSel h ≠ 0#4) ∨
      (o.immForm = .zero ∧ hdrImm h ≠ 0#16) ∨
      (o.immForm = .bit ∧ (hdrImm h).extractLsb' 1 15 ≠ 0#15)) :
    fieldsOk o h = false := by
  refine Bool.eq_false_iff.mpr fun ok => ?_
  obtain ⟨rsv, len, sel, imm⟩ := fieldsOk_iff.mp ok
  rcases violated with v | v | ⟨unused, v⟩ | ⟨form, v⟩ | ⟨form, v⟩
  · exact v rsv
  · exact v len
  · exact v (sel.resolve_left (by simp [unused]))
  · rw [form] at imm
    exact v (beq_iff_eq.mp imm)
  · rw [form] at imm
    exact v (beq_iff_eq.mp imm)

/-! ## The response to a rejected command -/

/-- An error response is its OPC above the code; no flag and no count is set (30 R81, 60 R282). -/
theorem errorWords_eq (opc : BitVec 8) (rc : ResultCode) :
    errorWords opc rc = [0#16 ++ opc ++ (0#4 ++ rcValue rc)] := by
  refine congrArg (· :: []) (BitVec.eq_of_toNat_eq ?_)
  change BitVec.toNat (w := 14 + (2 + (8 + (1 + (1 + (1 + (1 + 4)))))))
    (0#14 ++ (0#2 ++ (opc ++ (0#1 ++ (0#1 ++ (0#1 ++ (0#1 ++ rcValue rc))))))) =
    BitVec.toNat (w := 16 + 8 + (4 + 4)) (0#16 ++ opc ++ (0#4 ++ rcValue rc))
  simp only [BitVec.toNat_append, BitVec.toNat_ofNat, Nat.zero_mod, Nat.zero_shiftLeft, Nat.zero_or]

/-- The error of a frame whose last word is taken is that of its words. -/
theorem step_of_rejected_frame {s : State} {w h : Word} {ds : List Word} {es : List PortEvent}
    {e : DecodeError} (port : s.cmdPort = .word w :: es) (words : s.taken ++ [w] = h :: ds)
    (rejected : decode (h :: ds) = .error e) :
    step s = .next ((s.advancePort es).frameError (h :: ds) e) := by
  have frame : s.frameWith w = h :: ds := words
  rw [step_of_rejected port (frame ▸ rejected), frame]

/-- Settles O6: the decoder's map and the table have the same opcodes. -/
theorem illegalOpcodesAreRejected : Obligations.IllegalOpcodesAreRejected := by
  unfold Obligations.IllegalOpcodesAreRejected
  intro s w h ds es port words complete absent
  have rejected := decode_illegal complete.ge (opcodeOf_eq_none_iff.mpr absent)
  rw [step_of_rejected_frame port words rejected, State.frameError, errorWords_eq]
  rfl

/-- Settles O7: the row's operation is the one the decoder checks the fields of. -/
theorem reservedFieldsAreRejected : Obligations.ReservedFieldsAreRejected := by
  unfold Obligations.ReservedFieldsAreRejected
  intro s w h ds es r port words complete row opc violated
  obtain ⟨o, found, rfl⟩ := exists_opcode_of_row row
  have fields : fieldsOk o h = false := fieldsOk_eq_false (by rw [hdrImm_upper]; exact violated)
  have found : opcodeOf (hdrOpc h) = some o := (congrArg opcodeOf opc).symm.trans found
  rw [step_of_rejected_frame port words (decode_reserved complete.ge found fields), State.frameError,
    errorWords_eq]
  rfl

end Sys2Proof.Machine
end

section
/-! The response of every command: its shape (30 R81, R94; 60 R282), and its result code, the first error of
the order of 60 R281 that applies. Each condition of the order is named, tied to the class check or to the
command's work, and the code follows. -/

namespace Sys2Proof.Machine

open Sys2Proof.Safety

/-! ## The shape of a response -/

/-- The shape of the response `h :: ds` to a command of the operation `o` (30 R81, R94; 60 R282). -/
def ResponseShaped (o : Opcode) (h : Word) (ds : List Word) : Prop :=
  h.extractLsb' 8 8 = o.byte ∧ h.extractLsb' 7 1 = 0#1 ∧ h.extractLsb' 18 14 = 0#14 ∧
  (h.extractLsb' 16 2).toNat = ds.length ∧ (h.extractLsb' 0 4).toNat ≤ 9 ∧
  (h.extractLsb' 0 4 = 0#4 → ds.length = o.nresp) ∧
  (h.extractLsb' 0 4 ≠ 0#4 → ds = [] ∧ h.extractLsb' 4 3 = 0#3)

theorem nresp_lt (o : Opcode) : o.nresp < 4 := by cases o <;> decide

theorem responseShaped_ok {o : Opcode} {a : Arch} {r : Reply} (words : r.data.length = o.nresp) :
    ResponseShaped o (CmdResult.header o (.ok a r)) r.data := by
  obtain ⟨opc, reserved, zero, rlen, rc, -⟩ := rspHeader_ok o r (words ▸ nresp_lt o)
  exact ⟨opc, reserved, zero, rlen, by rw [CmdResult.header, rc]; decide, fun _ => words, (absurd rc ·)⟩

theorem responseShaped_error (o : Opcode) {rc : ResultCode} (error : rc ≠ .ok) :
    ResponseShaped o (mkRspHeader 0#2 o.byte false false false (rcValue rc)) [] := by
  obtain ⟨opc, reserved, zero, rlen, code, flags⟩ := rspHeader_raise o rc
  have bounded : (rcValue rc).toNat ≤ 9 := by cases rc <;> decide
  have nonzero : rcValue rc ≠ 0#4 := by
    cases rc with
    | ok => exact absurd rfl error
    | _ => decide
  exact ⟨opc, reserved, zero, rlen, by rw [code]; exact bounded, fun e => absurd (code.symm.trans e) nonzero,
    fun _ => ⟨rfl, flags⟩⟩

theorem commandResult_shaped (i : Instr) (a : Arch) :
    ResponseShaped i.opcode ((commandResult i a).header i.opcode) (commandResult i a).words := by
  have ends := commandResult_ends i a
  cases result : commandResult i a with
  | ok b r => exact responseShaped_ok (commandBody_data (commandResult_ok result).1)
  | raise rc =>
    rw [result] at ends
    cases ends with
    | refused _ _ error => exact responseShaped_error _ error
  | diverge b => exact responseShaped_error _ (by decide)

/-- Settles O19, from the result of the command. -/
theorem responsesHaveTheirShape : Obligations.ResponsesHaveTheirShape := by
  unfold Obligations.ResponsesHaveTheirShape
  intro i s t h
  obtain rfl := exec_eq_next_iff.mp h
  exact ⟨rfl, rfl, _, _, rfl, commandResult_shaped i s.arch⟩

/-! ## The conditions of 60 R281 -/

section
variable (i : Instr) (a : Arch)

/-- BAD_CSR: CSR_RD of an unassigned number, CSR_WR of one that is no configuration register. -/
def BadCsr : Prop :=
  (∃ n, i = .csrRd n ∧ ∀ p ∈ registerMap a, p.1 ≠ n) ∨ (∃ n d, i = .csrWr n d ∧ n ∉ configNumbers)

/-- FAULTED: class M in FAULT. -/
def Faulted : Prop := mutates i = true ∧ a.lifecycle = .fault

/-- BAD_STATE: the class is not admitted by STATE. -/
def BadState : Prop :=
  ((i = .start ∨ ∃ n d, i = .csrWr n d) ∧ a.lifecycle ≠ .config) ∨
  ((inspects i = true ∨ mutates i = true) ∧ a.lifecycle = .config)

/-- BAD_OPERAND: SEL names no buffer, or mu is not in [0, 1). -/
def BadOperand : Prop :=
  (∃ sel k, (i = .cbRds sel k ∨ i = .cbRdu sel k) ∧ 3 ≤ sel.toNat) ∨
  (∃ mu, i = .interp mu ∧ ¬(fge mu 0x00000000#32 = true ∧ flt mu 0x3F800000#32 = true))

/-- The capacity of the buffer SEL names (30 R85). -/
def selSize (sel : BitVec 4) : Nat := [8, 3, a.syncLen.toNat].getD sel.toNat 0

/-- INDEX_RANGE: an offset or a word outside the buffer or the payload. -/
def IndexRange : Prop :=
  (∃ sel k, i = .cbRds sel k ∧ ¬(-(selSize a sel : Int) ≤ k.toInt ∧ k.toInt < (selSize a sel : Int))) ∨
  (∃ sel j, i = .cbRdu sel j ∧ selSize a sel < j.toNat) ∨
  (∃ w, i = .pktRdw w ∧ (a.pktLen.toNat + 31) / 32 ≤ w.toNat)

/-- CFG_INVALID: START of an illegal configuration. -/
def CfgInvalid : Prop := i = .start ∧ startLegal a = false

end

/-! ## The class check (30 R89) -/

theorem classError_eq_faulted_iff {c : CmdClass} {l : Lifecycle} :
    classError c l = some .faulted ↔ c = .mutate ∧ l = .fault := by
  cases c <;> cases l <;> simp [classError]

theorem classError_eq_badState_iff {c : CmdClass} {l : Lifecycle} :
    classError c l = some .badState ↔
      ((c = .start ∨ c = .write) ∧ l ≠ .config) ∨ ((c = .inspect ∨ c = .mutate) ∧ l = .config) := by
  cases c <;> cases l <;> simp [classError]

/-- The class check has these two errors only. -/
theorem classError_cases (c : CmdClass) (l : Lifecycle) :
    classError c l = none ∨ classError c l = some .faulted ∨ classError c l = some .badState := by
  cases c <;> cases l <;> simp [classError]

/-- The class of a command, in the words of the claims. -/
theorem cmdClass_opcode_iff (i : Instr) :
    (cmdClass i.opcode = .mutate ↔ mutates i = true) ∧ (cmdClass i.opcode = .inspect ↔ inspects i = true) ∧
    (cmdClass i.opcode = .start ↔ i = .start) ∧ (cmdClass i.opcode = .write ↔ ∃ n d, i = .csrWr n d) := by
  cases i <;> simp [cmdClass, Instr.opcode, mutates, inspects]

theorem faulted_iff {i : Instr} {a : Arch} :
    Faulted i a ↔ classError (cmdClass i.opcode) a.lifecycle = some .faulted := by
  obtain ⟨mutate, -, -, -⟩ := cmdClass_opcode_iff i
  rw [classError_eq_faulted_iff, mutate, Faulted]

theorem badState_iff {i : Instr} {a : Arch} :
    BadState i a ↔ classError (cmdClass i.opcode) a.lifecycle = some .badState := by
  obtain ⟨mutate, inspect, start, write⟩ := cmdClass_opcode_iff i
  rw [classError_eq_badState_iff, mutate, inspect, start, write, BadState]

/-- A bad register number is refused before the class (60 R281). -/
theorem commandResult_of_badCsr {i : Instr} {a : Arch} (bad : BadCsr i a) :
    commandResult i a = .raise .badCsr := by
  obtain ⟨n, rfl, unassigned⟩ | ⟨n, d, rfl, readOnly⟩ := bad
  · rw [commandResult_run rfl, commandBody, csrOf_eq_none_iff.mpr unassigned]
  · rw [commandResult, writableCsr_eq_none_iff.mpr readOnly]

theorem commandResult_of_classError {i : Instr} {a : Arch} {rc : ResultCode} (good : ¬BadCsr i a)
    (h : classError (cmdClass i.opcode) a.lifecycle = some rc) : commandResult i a = .raise rc := by
  by_cases write : ∃ n d, i = .csrWr n d
  · obtain ⟨n, d, rfl⟩ := write
    cases named : writableCsr n with
    | none => exact absurd (.inr ⟨n, d, rfl, writableCsr_eq_none_iff.mp named⟩) good
    | some c =>
      have refused : classError .write a.lifecycle = some rc := h
      simp [commandResult, named, gated, refused]
  · exact commandResult_refused (fun n d e => write ⟨n, d, e⟩) h

theorem commandResult_of_admitted {i : Instr} {a : Arch} (running : ¬Faulted i a) (admitted : ¬BadState i a) :
    commandResult i a = commandBody i a := by
  rcases classError_cases (cmdClass i.opcode) a.lifecycle with h | h | h
  · exact commandResult_run h
  · exact absurd (faulted_iff.mpr h) running
  · exact absurd (badState_iff.mpr h) admitted

/-! ## Buffer reads (41 R146, R147) -/

/-- The capacity of a buffer (10 R35 to R37). -/
def instanceSize (a : Arch) : Machine.Instance → Nat
  | .raw => Config.rawDepth
  | .ih => Config.ihDepth
  | .eh => a.syncN

theorem instanceOf_eq_none_iff {sel : BitVec 4} : instanceOf sel = none ↔ 3 ≤ sel.toNat := by
  revert sel; decide

theorem selSize_eq {a : Arch} {sel : BitVec 4} {b : Machine.Instance} (h : instanceOf sel = some b) :
    selSize a sel = instanceSize a b := by
  unfold instanceOf at h
  split at h
  · next e => cases h; subst e; rfl
  · split at h
    · next e => cases h; subst e; rfl
    · split at h
      · next e => cases h; subst e; rfl
      · cases h

theorem readSigned_eq_none_iff {a : Arch} {k : Int} {b : Machine.Instance} :
    readSigned a k b = none ↔ ¬(-(instanceSize a b : Int) ≤ k ∧ k < (instanceSize a b : Int)) := by
  cases b <;> rw [readSigned, Option.map_eq_none_iff, CBuf.rds_eq_none] <;> rfl

theorem readUnsigned_eq_none_iff {a : Arch} {j : Nat} {b : Machine.Instance} :
    readUnsigned a j b = none ↔ instanceSize a b < j := by
  cases b <;> rw [readUnsigned, Option.map_eq_none_iff, CBuf.rdu_eq_none] <;> rfl

/-- A buffer read checks SEL, then the offset (60 R281). -/
theorem bufferRead_cases (a : Arch) (sel : BitVec 4) (read : Machine.Instance → Option (List Word)) :
    (3 ≤ sel.toNat ∧ bufferRead a sel read = .raise .badOperand) ∨
    (∃ b, instanceOf sel = some b ∧
      ((read b = none ∧ bufferRead a sel read = .raise .indexRange) ∨
        (read b ≠ none ∧ ∃ ws, bufferRead a sel read = .ok a { data := ws }))) := by
  cases named : instanceOf sel with
  | none => exact .inl ⟨instanceOf_eq_none_iff.mp named, by simp [bufferRead, named]⟩
  | some b =>
    refine .inr ⟨b, rfl, ?_⟩
    cases inside : read b with
    | none => exact .inl ⟨rfl, by simp [bufferRead, named, inside]⟩
    | some ws => exact .inr ⟨nofun, ws, by simp [bufferRead, named, inside]⟩

/-! ## The errors of a command's work -/

theorem muLegal_eq_false_iff {mu : Word} :
    muLegal mu = false ↔ ¬(fge mu 0x00000000#32 = true ∧ flt mu 0x3F800000#32 = true) := by
  rw [muLegal, ← Bool.and_eq_true, Bool.eq_false_iff]
  rfl

theorem commandBody_of_badOperand {i : Instr} {a : Arch} (bad : BadOperand i) :
    commandBody i a = .raise .badOperand := by
  obtain ⟨sel, k, rfl | rfl, unnamed⟩ | ⟨mu, rfl, outside⟩ := bad
  · rw [commandBody, bufferRead, instanceOf_eq_none_iff.mpr unnamed]
  · rw [commandBody, bufferRead, instanceOf_eq_none_iff.mpr unnamed]
  · rw [commandBody, muLegal_eq_false_iff.mpr outside]
    rfl

theorem commandBody_of_indexRange {i : Instr} {a : Arch} (good : ¬BadOperand i) (outside : IndexRange i a) :
    commandBody i a = .raise .indexRange := by
  obtain ⟨sel, k, rfl, outside⟩ | ⟨sel, j, rfl, outside⟩ | ⟨w, rfl, outside⟩ := outside
  · rcases bufferRead_cases a sel (readSigned a (s16 k)) with
      ⟨unnamed, -⟩ | ⟨b, named, ⟨-, e⟩ | ⟨inside, -⟩⟩
    · exact absurd (.inl ⟨sel, k, .inl rfl, unnamed⟩) good
    · exact e
    · exact absurd (readSigned_eq_none_iff.mpr (selSize_eq named ▸ outside)) inside
  · rcases bufferRead_cases a sel (readUnsigned a (u16 j)) with
      ⟨unnamed, -⟩ | ⟨b, named, ⟨-, e⟩ | ⟨inside, -⟩⟩
    · exact absurd (.inl ⟨sel, j, .inr rfl, unnamed⟩) good
    · exact e
    · exact absurd (readUnsigned_eq_none_iff.mpr (selSize_eq named ▸ outside)) inside
  · exact if_pos outside

theorem commandBody_of_cfgInvalid {i : Instr} {a : Arch} (bad : CfgInvalid i a) :
    commandBody i a = .raise .cfgInvalid := by
  obtain ⟨rfl, illegal⟩ := bad
  rw [commandBody, illegal]
  rfl

/-- A command's work has no error but those of the order. -/
theorem commandBody_raise {i : Instr} {a : Arch} {rc : ResultCode} (h : commandBody i a = .raise rc) :
    BadCsr i a ∨ BadOperand i ∨ IndexRange i a ∨ CfgInvalid i a := by
  cases i with
  | csrRd n =>
    cases named : csrOf n with
    | none => exact .inl (.inl ⟨n, rfl, csrOf_eq_none_iff.mp named⟩)
    | some c => simp [commandBody, named] at h
  | csrWr n d =>
    cases named : writableCsr n with
    | none => exact .inl (.inr ⟨n, d, rfl, writableCsr_eq_none_iff.mp named⟩)
    | some c => simp [commandBody, named] at h
  | start =>
    cases legal : startLegal a with
    | false => exact .inr (.inr (.inr ⟨rfl, legal⟩))
    | true => simp [commandBody, legal] at h
  | interp mu =>
    cases legal : muLegal mu with
    | false => exact .inr (.inl (.inr ⟨mu, rfl, muLegal_eq_false_iff.mp legal⟩))
    | true => simp [commandBody, legal] at h
  | pktRdw w =>
    by_cases outside : payloadWords a.pktL ≤ u16 w
    · exact .inr (.inr (.inl (.inr (.inr ⟨w, rfl, outside⟩))))
    · simp [commandBody, outside] at h
  | cbRds sel k =>
    rcases bufferRead_cases a sel (readSigned a (s16 k)) with
      ⟨unnamed, -⟩ | ⟨b, named, ⟨outside, -⟩ | ⟨-, ws, e⟩⟩
    · exact .inr (.inl (.inl ⟨sel, k, .inl rfl, unnamed⟩))
    · exact .inr (.inr (.inl (.inl ⟨sel, k, rfl, selSize_eq named ▸ readSigned_eq_none_iff.mp outside⟩)))
    · cases e.symm.trans h
  | cbRdu sel j =>
    rcases bufferRead_cases a sel (readUnsigned a (u16 j)) with
      ⟨unnamed, -⟩ | ⟨b, named, ⟨outside, -⟩ | ⟨-, ws, e⟩⟩
    · exact .inr (.inl (.inl ⟨sel, j, .inr rfl, unnamed⟩))
    · exact .inr (.inr (.inl (.inr (.inl
        ⟨sel, j, rfl, selSize_eq named ▸ readUnsigned_eq_none_iff.mp outside⟩))))
    · cases e.symm.trans h
  | ssTick re im =>
    rw [commandBody] at h
    unfold ssTickResult at h
    split at h <;> cases h
  | rxTick re im =>
    rw [commandBody] at h
    unfold rxTickResult at h
    split at h <;> cases h
  | _ => cases h

/-! ## The result code -/

/-- The code a result answers. -/
def CmdResult.code : CmdResult → ResultCode
  | .ok _ _ => .ok
  | .raise rc => rc
  | .diverge _ => .diverged

theorem CmdResult.header_rc (o : Opcode) (r : CmdResult) :
    (r.header o).extractLsb' 0 4 = rcValue r.code := by
  cases r <;> exact (rspHeader_rc ..).1

/-- Without an error of the order, a command completes or diverges (60 R281, R284). -/
theorem commandBody_completes {i : Instr} {a : Arch} (csr : ¬BadCsr i a) (operand : ¬BadOperand i)
    (index : ¬IndexRange i a) (config : ¬CfgInvalid i a) :
    (commandBody i a).code = .ok ∨ ((commandBody i a).code = .diverged ∧ takesSample i = true) := by
  cases result : commandBody i a with
  | ok b r => exact .inl rfl
  | raise rc =>
    rcases commandBody_raise result with bad | bad | bad | bad
    · exact absurd bad csr
    · exact absurd bad operand
    · exact absurd bad index
    · exact absurd bad config
  | diverge b => exact .inr ⟨rfl, (commandBody_diverge result).1⟩

/-- Settles O20: the conditions in their order, each with the result it forces. -/
theorem resultCodeFollowsPrecedence : Obligations.ResultCodeFollowsPrecedence := by
  unfold Obligations.ResultCodeFollowsPrecedence
  intro i s t h
  obtain rfl := exec_eq_next_iff.mp h
  refine ⟨_, _, rfl, ?_⟩
  rw [CmdResult.header_rc]
  have raised {r : CmdResult} {rc : ResultCode} (e : r = .raise rc) :
      (rcValue r.code).toNat = (rcValue rc).toNat := by rw [e]; rfl
  have worked := @commandResult_of_admitted i s.arch
  refine ⟨fun csr => raised (commandResult_of_badCsr csr),
    fun csr faulted => raised (commandResult_of_classError csr (faulted_iff.mp faulted)),
    fun csr _ state => raised (commandResult_of_classError csr (badState_iff.mp state)),
    fun _ running admitted operand =>
      raised ((worked running admitted).trans (commandBody_of_badOperand operand)),
    fun _ running admitted operand index =>
      raised ((worked running admitted).trans (commandBody_of_indexRange operand index)),
    fun _ running admitted _ _ config =>
      raised ((worked running admitted).trans (commandBody_of_cfgInvalid config)),
    fun csr running admitted operand index config => ?_⟩
  rw [worked running admitted]
  rcases commandBody_completes csr operand index config with ok | ⟨diverged, sample⟩
  · exact .inl (by rw [ok]; rfl)
  · exact .inr ⟨by rw [diverged]; rfl, sample⟩

end Sys2Proof.Machine
end

section
/-! The control commands (40_control.md) and the rate that START derives (42 R161). A command whose class STATE
admits answers what its work gives; then which configurations are legal and what START constructs, what each
register reads and stores, and the range of RATE. -/

namespace Sys2Proof.Machine

open Sys2Proof.Safety

/-! ## What a command answers -/

section
variable {i : Instr} {s : State} {ws : List Word}

theorem exec_of_ok {b : Arch} {r : Reply} (result : commandResult i s.arch = .ok b r)
    (words : okWords i.opcode r = ws) : exec i s = .next (answered s b ws) := by
  rw [exec_eq_finish, result, finish_ok_answered, words]

theorem exec_of_raise {rc : ResultCode} (result : commandResult i s.arch = .raise rc)
    (words : errorWords i.opcode.byte rc = ws) : exec i s = .next (answered s s.arch ws) := by
  rw [exec_eq_finish, result, finish_raise_answered, words]

end

/-- A header whose fields below IMM are known is IMM above their sixteen bits (30 R80). -/
theorem mkHeader_eq_append (imm : BitVec 16) {len : BitVec 2} {sel : BitVec 4} {opc : BitVec 8}
    {low : BitVec 16} (h : 0#2 ++ (len ++ (sel ++ opc)) = low) : mkHeader imm len sel opc = imm ++ low :=
  h ▸ rfl

/-! ## NOP and RESET -/

/-- Settles O25: NOP runs in every STATE, and its work is no work. -/
theorem nopAnswersAndChangesNothing : Obligations.NopAnswersAndChangesNothing := by
  unfold Obligations.NopAnswersAndChangesNothing
  exact ⟨rfl, fun s => exec_of_ok (commandResult_run rfl) rfl⟩

/-- Every way but RESET in which a command can end keeps FAULT: START and CSR_WR work in CONFIG only, the
units in RUN only (30 R89). -/
theorem CommandEnds.reset_of_leaves_fault {i : Instr} {a : Arch} {r : CmdResult} (h : CommandEnds i a r)
    (fault : a.lifecycle = .fault) (left : (r.leaves a).lifecycle ≠ .fault) : i = .reset := by
  cases h with
  | reset command => exact command
  | refused | read => exact absurd fault left
  | started _ config | stored _ _ _ _ config => cases fault.symm.trans config
  | worked _ _ run | diverged _ run => cases fault.symm.trans run

/-- Settles O26: the work of RESET does not look at the state it replaces. -/
theorem resetCommandResetsEverything : Obligations.ResetCommandResetsEverything := by
  unfold Obligations.ResetCommandResetsEverything
  refine ⟨rfl, fun s => exec_of_ok (commandResult_run rfl) rfl, fun i s t fault h left => ?_⟩
  obtain rfl := exec_eq_next_iff.mp h
  exact (commandResult_ends i s.arch).reset_of_leaves_fault fault left

/-! ## START (40 R122 to R124) -/

/-- START's validation, condition by condition (40 R122). -/
theorem startLegal_iff {a : Arch} : startLegal a = true ↔
    finite a.sps = true ∧ fge a.sps f2 = true ∧ finite a.loopBw = true ∧ fge a.loopBw f0 = true ∧
    finite a.loopDamp = true ∧ fgt a.loopDamp f0 = true ∧ fgt a.agcAlpha f0 = true ∧ flt a.agcAlpha f1 = true ∧
    1 ≤ a.syncLen.toNat ∧ a.syncLen.toNat ≤ 64 ∧ a.threshold.toNat ≤ 65535 ∧
    1 ≤ a.pktLen.toNat ∧ a.pktLen.toNat ≤ 8192 ∧
    finite a.designedGains.1 = true ∧ finite a.designedGains.2 = true := by
  simp only [startLegal, configLegal, Bool.and_eq_true, decide_eq_true_eq, and_assoc]
  rfl

/-- EH at construction: N slots that hold NOLOCK below slots that hold 0 (10 R55). -/
theorem constructedEh_eq_replicate {n : Nat} (h : n ≤ 64) (v : Word) :
    constructedEh n v = List.replicate n v ++ List.replicate (64 - n) 0#32 := by
  refine List.ext_getElem ?_ fun i inside _ => ?_
  · simp [constructedEh, Config.syncLenMax, Nat.add_sub_cancel' h]
  · by_cases low : i < n
    · rw [List.getElem_append_left (by simpa using low)]
      simp [constructedEh, low]
    · rw [List.getElem_append_right (by simpa using low)]
      simp [constructedEh, low]

theorem commandResult_start {a : Arch} (config : a.lifecycle = .config) : commandResult .start a =
    if startLegal a = true then .ok a.deriveConstants.construct {} else .raise .cfgInvalid :=
  commandResult_run (by rw [config]; rfl)

/-- Settles O27: the conditions are those of `startLegal`, and the legal SYNC_LEN fits EH. -/
theorem startValidatesAndConstructs : Obligations.StartValidatesAndConstructs := by
  unfold Obligations.StartValidatesAndConstructs
  refine ⟨rfl, fun s => ?_⟩
  intro a d4 q kp ki legal
  have valid : startLegal a = true ↔ legal := startLegal_iff
  refine ⟨fun config ok => ?_, fun config illegal => ?_, fun outside => ?_⟩
  · have result := (commandResult_start config).trans (if_pos (valid.mpr ok))
    obtain ⟨-, fits, -⟩ := startLegal_bounds (valid.mpr ok)
    rw [Arch.syncN] at fits
    rw [← constructedEh_eq_replicate fits]
    exact exec_of_ok result rfl
  · exact exec_of_raise ((commandResult_start config).trans (if_neg (illegal ∘ valid.mp))) rfl
  · have refused : classError .start a.lifecycle = some .badState :=
      classError_eq_badState_iff.mpr (.inl ⟨.inl rfl, outside⟩)
    exact exec_of_raise (commandResult_refused (i := .start) (by simp) refused) rfl

/-! ## CSR_RD (40 R125) -/

/-- Each register is found by its own number (10 R45). -/
theorem csrOf_csrNumber (c : Csr) : csrOf (csrNumber c) = some c := by cases c <;> rfl

/-- `BitVec.append_assoc` without its cast. -/
theorem toNat_append_append {i j k : Nat} (x : BitVec i) (y : BitVec j) (z : BitVec k) :
    (x ++ (y ++ z)).toNat = (x ++ y ++ z).toNat := by
  rw [BitVec.append_assoc, BitVec.toNat_cast]

/-- STATUS, its fields joined from the most significant on (10 R46). -/
theorem statusWord_eq (a : Arch) : statusWord a =
    0#20 ++ a.faultCause ++ 0#3 ++ BitVec.ofBool a.pktAvail ++ BitVec.ofBool (a.pstate == .capturing) ++
      BitVec.ofBool a.gate ++ lifecycleValue a.lifecycle := by
  have pstate : pstateValue a.pstate = BitVec.ofBool (a.pstate == .capturing) := by cases a.pstate <;> rfl
  rw [← pstate]
  exact BitVec.eq_of_toNat_eq <| (toNat_append_append ..).trans <| (toNat_append_append ..).trans <|
    (toNat_append_append ..).trans <| (toNat_append_append ..).trans <| toNat_append_append ..

/-- CURSORS, its fields joined from the most significant on (10 R48). -/
theorem cursorsWord_eq (a : Arch) : cursorsWord a =
    0#10 ++ BitVec.ofNat 6 a.eh.cur ++ 0#6 ++ BitVec.ofNat 2 a.ih.cur ++ 0#5 ++ BitVec.ofNat 3 a.raw.cur :=
  BitVec.eq_of_toNat_eq <| (toNat_append_append ..).trans <| (toNat_append_append ..).trans <|
    (toNat_append_append ..).trans <| toNat_append_append ..

/-- An 8-bit register reads with zeros above it (10 R45). -/
theorem setWidth_byte (b : Byte) : b.setWidth 32 = 0#24 ++ b := BitVec.setWidth_eq_append (by decide)

/-- The register map lists every register, by its number and with what it reads (10 R45). -/
theorem registerMap_eq_map (a : Arch) :
    registerMap a = allCsrs.map fun c => (csrNumber c, csrRead a c) := by
  simp only [allCsrs, List.map, csrNumber, csrRead, statusWord_eq, cursorsWord_eq, setWidth_byte]
  rfl

theorem encode_csrRd (n : BitVec 16) : encode (.csrRd n) = [n ++ 0x0003#16] :=
  congrArg (· :: []) (mkHeader_eq_append (len := 0#2) (sel := 0#4) (opc := 0x03#8) n rfl)

theorem okWords_csrRd (w : Word) : okWords .csrRd { data := [w] } = [0x00010300#32, w] :=
  congrArg (· :: [w]) (show mkRspHeader 1#2 0x03#8 false false false 0#4 = 0x00010300#32 from rfl)

/-- Settles O28: the register map names each register's number, and BAD_CSR is the answer to the rest. -/
theorem csrReadsTheRegisterMap : Obligations.CsrReadsTheRegisterMap := by
  unfold Obligations.CsrReadsTheRegisterMap
  refine ⟨encode_csrRd, fun s => ⟨fun p assigned => ?_, fun n unassigned => ?_⟩⟩
  · obtain ⟨c, -, rfl⟩ := List.mem_map.mp (registerMap_eq_map s.arch ▸ assigned)
    have result : commandBody (.csrRd (csrNumber c)) s.arch = .ok s.arch { data := [csrRead s.arch c] } := by
      rw [commandBody, csrOf_csrNumber]
    exact exec_of_ok ((commandResult_run rfl).trans result) (okWords_csrRd _)
  · have words : errorWords Opcode.csrRd.byte .badCsr = [0x00000306#32] := rfl
    exact exec_of_raise (commandResult_of_badCsr (.inl ⟨n, rfl, unassigned⟩)) words

/-! ## CSR_WR (40 R126) -/

theorem writableCsr_csrNumber {c : Csr} (h : csrWritable c = true) : writableCsr (csrNumber c) = some c := by
  rw [writableCsr, csrOf_csrNumber, Option.filter_some, if_pos h]

theorem encode_csrWr (n : BitVec 16) (d : Word) : encode (.csrWr n d) = [n ++ 0x1004#16, d] :=
  congrArg (· :: [d]) (mkHeader_eq_append (len := 1#2) (sel := 0#4) (opc := 0x04#8) n rfl)

/-- In CONFIG a write to a configuration register stores the word. -/
theorem exec_csrWr_of_config {s : State} (config : s.arch.lifecycle = .config) (d : Word) {c : Csr}
    (writable : csrWritable c = true) :
    exec (.csrWr (csrNumber c) d) s = .next (answered s (csrStore s.arch c d) [0x00000400#32]) := by
  have body : commandBody (.csrWr (csrNumber c) d) s.arch = .ok (csrStore s.arch c d) {} := by
    rw [commandBody, writableCsr_csrNumber writable]
  have words : okWords .csrWr {} = [0x00000400#32] := rfl
  exact exec_of_ok ((commandResult_run (by rw [config]; rfl)).trans body) words

/-- Settles O29: the number is checked before the class, and then names the register stored. -/
theorem csrWritesTheConfiguration : Obligations.CsrWritesTheConfiguration := by
  unfold Obligations.CsrWritesTheConfiguration
  refine ⟨encode_csrWr, fun s d => ⟨fun config => ?_, fun outside n named => ?_, fun n readOnly => ?_⟩⟩
  · have stored (c : Csr) (writable : csrWritable c = true) := exec_csrWr_of_config config d writable
    exact ⟨stored .sps rfl, stored .loopBw rfl, stored .loopDamp rfl, stored .agcAlpha rfl,
      stored .syncLen rfl, stored .syncPatLo rfl, stored .syncPatHi rfl, stored .threshold rfl,
      stored .pktLen rfl, stored .lfsrPoly rfl, stored .lfsrSeed rfl⟩
  · have good : ¬BadCsr (.csrWr n d) s.arch := by simp [BadCsr, named]
    have refused : BadState (.csrWr n d) s.arch := .inl ⟨.inr ⟨n, d, rfl⟩, outside⟩
    have words : errorWords Opcode.csrWr.byte .badState = [0x00000403#32] := rfl
    exact exec_of_raise (commandResult_of_classError good (badState_iff.mp refused)) words
  · have words : errorWords Opcode.csrWr.byte .badCsr = [0x00000406#32] := rfl
    exact exec_of_raise (commandResult_of_badCsr (.inr ⟨n, d, rfl, readOnly⟩)) words

/-! ## Comparisons by key -/

theorem fkey_fpack_false {m : Nat} (h : m < 2 ^ 31) : fkey (fpack false m) = m := by
  simp [fkey, fsign_fpack false h, fmag_fpack false h]

theorem fgt_iff {x y : Word} (hx : fisNaN x = false) (hy : fisNaN y = false) :
    fgt x y = true ↔ fkey y < fkey x := by
  simp [fgt, hx, hy]

theorem fge_iff {x y : Word} (hx : fisNaN x = false) (hy : fisNaN y = false) :
    fge x y = true ↔ fkey y ≤ fkey x := by
  simp [fge, hx, hy]

/-! ## The derived rate (40 R123, 42 R161) -/

/-- A legal SPS is a positive value of at least 2.0, which is 2^150 units. -/
theorem sps_of_fge_two {x : Word} (hx : finite x = true) (h : fge x f2 = true) :
    fsign x = false ∧ 2 ^ 150 ≤ funits x := by
  have value := ((comparisonsOrderByValue.1 x f2 hx (by decide)).1).mp h
  rw [show fvalue f2 = 2 ^ 150 by decide +kernel] at value
  have units := fvalue_of_nonneg (x := x) (by omega)
  refine ⟨Bool.eq_false_iff.mpr fun negative => ?_, by omega⟩
  rw [fvalue, if_pos negative] at value
  omega

/-- The magnitude of FOUR_PI is that of TAU, doubled. -/
theorem funits_fourPi : funits Config.fourPi = 2 * funits Config.tau := by decide +kernel

/-- The magnitude pattern of RATE: FOUR_PI over SPS, rounded once. -/
def rateMag (sps : Word) : Nat := roundMag (funits Config.fourPi * 2 ^ 149) (funits sps)

theorem fdiv_fourPi {sps : Word} (hx : finite sps = true) (h : fge sps f2 = true) :
    fdiv Config.fourPi sps = fpack false (rateMag sps) := by
  obtain ⟨positive, units⟩ := sps_of_fge_two hx h
  have nonzero : fisZero sps = false := by
    rw [← Bool.not_eq_true, fisZero_iff_funits hx]; omega
  rw [fdiv_finite (by decide) hx nonzero, positive]
  rfl

/-- The largest finite SPS leaves more than one unit, so no SPS underflows to a zero. -/
theorem rateMag_pos {sps : Word} (hx : finite sps = true) (h : fge sps f2 = true) : 0 < rateMag sps := by
  obtain ⟨-, units⟩ := sps_of_fge_two hx h
  have largest : funits sps ≤ (2 ^ 24 - 1) * 2 ^ 253 := magUnits_le_largest ((finite_iff sps).mp hx)
  have fourPi : 2 ^ 152 ≤ funits Config.fourPi := by decide +kernel
  have unit : roundMag (magUnits 1) 1 = 1 := roundMag_magUnits (by decide)
  rw [show magUnits 1 = 1 by decide] at unit
  calc 0 < roundMag 1 1 := by rw [unit]; decide
    _ ≤ rateMag sps := roundMag_mono Nat.one_pos (by omega) (by omega)

/-- Rounding keeps the order, and the least SPS, 2.0, leaves TAU exactly. -/
theorem rateMag_le_tau {sps : Word} (hx : finite sps = true) (h : fge sps f2 = true) :
    rateMag sps ≤ fmag Config.tau := by
  obtain ⟨-, units⟩ := sps_of_fge_two hx h
  have order : funits Config.fourPi * 2 ^ 149 * 1 ≤ funits Config.tau * funits sps := by
    calc _ = funits Config.tau * 2 ^ 150 := by rw [funits_fourPi]; ring
      _ ≤ _ := Nat.mul_le_mul_left _ units
  calc rateMag sps ≤ roundMag (magUnits (fmag Config.tau)) 1 := roundMag_mono (by omega) Nat.one_pos order
    _ = fmag Config.tau := roundMag_magUnits (by decide)

/-- The bounds of the rounded quotient, read as comparisons. -/
theorem rate_in_range {sps : Word} (hx : finite sps = true) (h : fge sps f2 = true) :
    fgt (fdiv Config.fourPi sps) f0 = true ∧ fge Config.tau (fdiv Config.fourPi sps) = true := by
  have key : fkey (fpack false (rateMag sps)) = rateMag sps := fkey_fpack_false (roundMag_lt _ _)
  have number : fisNaN (fpack false (rateMag sps)) = false := fisNaN_fpack_roundMag _ _ _
  have positive := rateMag_pos hx h
  have atMost := rateMag_le_tau hx h
  rw [fdiv_fourPi hx h, fgt_iff number (by decide), fge_iff (by decide) number, key,
    show fkey f0 = 0 by decide, show fkey Config.tau = fmag Config.tau by decide]
  omega

/-- Settles O38: START sets RATE to the quotient, which a legal SPS keeps in range. -/
theorem rateIsInRange : Obligations.RateIsInRange := by
  unfold Obligations.RateIsInRange
  intro s t config legal h
  have result := (commandResult_start config).trans (if_pos legal)
  obtain rfl := Host.Outcome.next.inj ((exec_of_ok (s := s) result rfl).symm.trans h)
  obtain ⟨spsFinite, spsTwo, -⟩ := startLegal_iff.mp legal
  obtain ⟨positive, atMost⟩ := rate_in_range spsFinite spsTwo
  have atTwo : fdiv Config.fourPi f2 = Config.tau := by decide +kernel
  exact ⟨positive, atMost, fun two => (congrArg (fdiv Config.fourPi) two).trans atTwo⟩

end Sys2Proof.Machine
end

section
/-! The circular buffers (41_circular_buffer.md): the primitive, for every capacity and element type, and the
two commands that inspect RAW, IH and EH through it. -/

namespace Sys2Proof.Machine

open Sys2Proof.Safety

/-! ## The primitive (41 R141 to R144) -/

section
variable {α : Type} {n : Nat} {b : CBuf α}

/-- The cursor wraps to 0 at capacity N (41 R141). -/
theorem CBuf.push_cur_eq_ite (hc : b.cur < n) (v : α) :
    (b.push n v).cur = if b.cur + 1 = n then 0 else b.cur + 1 := by
  rw [CBuf.push_cur]
  split
  · next wraps => rw [wraps, Nat.mod_self]
  · next inside => exact Nat.mod_eq_of_lt (by omega)

theorem CBuf.push_eq (hc : b.cur < n) (v : α) :
    b.push n v = ⟨b.data.set b.cur v, if b.cur + 1 = n then 0 else b.cur + 1⟩ :=
  congrArg (CBuf.mk _) (CBuf.push_cur_eq_ite hc v)

/-- The offset -N is a whole turn behind the offset 0 (41 R142). -/
theorem CBuf.slot_neg_capacity : b.slot n (-(n : Int)) = b.slot n 0 := by
  rw [CBuf.slot, CBuf.slot, add_zero, ← sub_eq_add_neg, Int.sub_emod_right]

/-- The signed offset 1 is the unsigned offset 0, the oldest slot (41 R142, R143). -/
theorem CBuf.slot_succ (k : Nat) : b.slot n ((k + 1 : Nat) : Int) = (b.cur + k) % n := by
  have sum : (b.cur : Int) - 1 + (k + 1 : Nat) = ((b.cur + k : Nat) : Int) := by omega
  rw [CBuf.slot, sum, ← Int.natCast_emod, Int.toNat_natCast]

variable [Inhabited α]

/-- Inside the array the default is not read (41 R145). -/
theorem CBuf.some_slotVal {i : Nat} (h : i < b.data.length) : some (b.slotVal i) = b.data[i]? := by
  rw [CBuf.slotVal, List.getD_eq_getElem?_getD, List.getElem?_eq_getElem h, Option.getD_some]

theorem CBuf.rds_eq_getElem? (hn : n ≤ b.data.length) {k : Int} (low : -(n : Int) ≤ k) (high : k < n) :
    b.rds n k = b.data[b.slot n k]? := by
  have slot : b.slot n k < n := CBuf.slot_lt (by omega) k
  rw [CBuf.rds_of_range low high, CBuf.getS, CBuf.some_slotVal (by omega)]

theorem CBuf.rdu_eq_getElem? (h0 : 0 < n) (hn : n ≤ b.data.length) {j : Nat} (hj : j ≤ n) :
    b.rdu n j = b.data[(b.cur + j) % n]? := by
  have slot : (b.cur + j) % n < n := Nat.mod_lt _ h0
  rw [CBuf.rdu_of_range hj, CBuf.getU, CBuf.some_slotVal (by omega)]

/-- The newest element, by the signed offset 0 and by the unsigned offset N - 1 (41 R143). -/
theorem CBuf.rdu_pred_capacity (h0 : 0 < n) : b.rdu n (n - 1) = b.rds n 0 := by
  rw [CBuf.rdu_of_range (Nat.sub_le n 1), CBuf.rds_of_range (by omega) (by omega)]
  exact congrArg some (CBuf.getS_neg (i := 0) h0).symm

theorem CBuf.rds_neg_capacity (h0 : 0 < n) : b.rds n (-(n : Int)) = b.rds n 0 := by
  rw [CBuf.rds_of_range le_rfl (by omega), CBuf.rds_of_range (by omega) (by omega), CBuf.getS, CBuf.getS,
    CBuf.slot_neg_capacity]

theorem CBuf.rdu_capacity : b.rdu n n = b.rdu n 0 := by
  rw [CBuf.rdu_of_range le_rfl, CBuf.rdu_of_range (Nat.zero_le n), CBuf.getU, CBuf.getU, Nat.add_mod_right,
    add_zero]

theorem CBuf.rds_succ {k : Nat} (hk : k + 1 < n) : b.rds n ((k + 1 : Nat) : Int) = b.rdu n k := by
  rw [CBuf.rds_of_range (by omega) (by omega), CBuf.rdu_of_range (by omega), CBuf.getS, CBuf.getU,
    CBuf.slot_succ]

end

/-- Settles O33, from the slot each offset names. -/
theorem bufferOffsetsAgree : Obligations.BufferOffsetsAgree := by
  unfold Obligations.BufferOffsetsAgree
  intro α _ n b h0 size hc
  have shifted (k : Nat) (positive : 1 ≤ k) (hk : k < n) : b.rds n (k : Int) = b.rdu n (k - 1) := by
    obtain ⟨j, rfl⟩ := Nat.exists_eq_add_of_le' positive
    exact CBuf.rds_succ hk
  exact ⟨CBuf.push_eq hc, fun _ low high => CBuf.rds_eq_getElem? size.ge low high,
    fun _ hj => CBuf.rdu_eq_getElem? h0 size.ge hj, fun _ => CBuf.rds_eq_none, fun _ => CBuf.rdu_eq_none,
    CBuf.rds_neg_capacity h0, shifted, CBuf.rdu_pred_capacity h0, CBuf.rdu_capacity⟩

/-! ## Sequences of pushes (41 R148) -/

section
variable {α : Type} {n : Nat} {b : CBuf α}

/-- A buffer after pushes, the first of the list first. -/
def CBuf.pushes (n : Nat) (b : CBuf α) (vs : List α) : CBuf α := vs.foldl (fun b v => b.push n v) b

theorem CBuf.pushes_concat (vs : List α) (v : α) : b.pushes n (vs ++ [v]) = (b.pushes n vs).push n v :=
  List.foldl_concat ..

theorem CBuf.pushes_length (vs : List α) : (b.pushes n vs).data.length = b.data.length := by
  induction vs using List.reverseRecOn with
  | nil => rfl
  | append_singleton vs v ih => rw [CBuf.pushes_concat, CBuf.push_length, ih]

theorem CBuf.pushes_cur_lt (hc : b.cur < n) (vs : List α) : (b.pushes n vs).cur < n := by
  induction vs using List.reverseRecOn with
  | nil => exact hc
  | append_singleton vs v ih => exact CBuf.pushes_concat vs v ▸ CBuf.push_cur_lt (Nat.zero_lt_of_lt hc)

variable [Inhabited α]

/-- Of the last N values pushed, the signed offset -i reads the one i pushes before the last: a push adds one
at the front and moves the others one offset back. -/
theorem CBuf.getS_pushes (hc : b.cur < n) (size : n ≤ b.data.length) (vs : List α) {i : Nat} (hi : i < n)
    (pushed : i < vs.length) : some ((b.pushes n vs).getS n (-(i : Int))) = vs.reverse[i]? := by
  induction vs using List.reverseRecOn generalizing i with
  | nil => simp at pushed
  | append_singleton vs v ih =>
    have cur := CBuf.pushes_cur_lt hc vs
    have size : n ≤ (b.pushes n vs).data.length := (CBuf.pushes_length vs).symm ▸ size
    rw [CBuf.pushes_concat, List.reverse_concat]
    cases i with
    | zero => exact congrArg some (CBuf.getS_push_zero cur size)
    | succ i =>
      rw [List.length_append, List.length_singleton] at pushed
      rw [CBuf.getS_push_succ cur size hi, List.getElem?_cons_succ]
      exact ih (by omega) (by omega)

end

/-- Settles O32: the unsigned offset j is the signed offset -(N - 1 - j). -/
theorem bufferKeepsTheLastPushes : Obligations.BufferKeepsTheLastPushes := by
  unfold Obligations.BufferKeepsTheLastPushes
  intro α _ n b vs h0 size hc enough
  have newest {i : Nat} (hi : i < n) := CBuf.getS_pushes hc size.ge vs hi (by omega)
  refine ⟨?_, fun j hj => ?_⟩
  · calc (b.pushes n vs).rds n 0
      _ = some ((b.pushes n vs).getS n (-((0 : Nat) : Int))) := CBuf.rds_of_range (by omega) (by omega)
      _ = vs.reverse[0]? := newest h0
      _ = vs.getLast? := by rw [← List.head?_eq_getElem?, List.head?_reverse]
  · have offset : n - 1 - (n - 1 - j) = j := by omega
    have position : vs.length - 1 - (n - 1 - j) = vs.length - n + j := by omega
    calc (b.pushes n vs).rdu n j
      _ = some ((b.pushes n vs).getU n (n - 1 - (n - 1 - j))) := by rw [CBuf.rdu_of_range hj.le, offset]
      _ = vs.reverse[n - 1 - j]? := by rw [← CBuf.getS_neg (by omega), newest (by omega)]
      _ = vs[vs.length - n + j]? := by rw [List.getElem?_reverse (by omega), position]

/-! ## Commands that inspect (30 R89) -/

section
variable {i : Instr} {s : State}

theorem cmdClass_of_inspects (hi : inspects i = true) : cmdClass i.opcode = .inspect :=
  (cmdClass_opcode_iff i).2.1.mpr hi

theorem commandResult_inspect_of_config {a : Arch} (hi : inspects i = true) (config : a.lifecycle = .config) :
    commandResult i a = .raise .badState := by
  refine commandResult_refused (fun n d write => ?_) ?_
  · subst write; simp [inspects] at hi
  · rw [cmdClass_of_inspects hi, config]; rfl

theorem commandResult_inspect {a : Arch} (hi : inspects i = true) (outside : a.lifecycle ≠ .config) :
    commandResult i a = commandBody i a := by
  refine commandResult_run ?_
  rw [cmdClass_of_inspects hi]
  cases state : a.lifecycle with
  | config => exact absurd state outside
  | run | fault => rfl

end

/-! ## Buffer reads (41 R146, R147) -/

/-- The header of a command with SEL and no data words is IMM, SEL and OPC (30 R80). -/
theorem mkHeader_sel (imm : BitVec 16) (sel : BitVec 4) (opc : BitVec 8) :
    mkHeader imm 0#2 sel opc = imm ++ 0x0#4 ++ sel ++ opc := by
  have low : 0#2 ++ (0#2 ++ (sel ++ opc)) = 0x0#4 ++ (sel ++ opc) :=
    BitVec.eq_of_toNat_eq (toNat_append_append 0#2 0#2 (sel ++ opc))
  rw [mkHeader_eq_append imm low]
  exact BitVec.eq_of_toNat_eq ((toNat_append_append imm 0x0#4 (sel ++ opc)).trans
    (toNat_append_append (imm ++ 0x0#4) sel opc))

/-- A read answers an element as two data words (41 R146, R147). -/
theorem okWords_of_two (o : Opcode) {ws : List Word} (two : ws.length = 2) :
    okWords o { data := ws } = mkRspHeader 2#2 o.byte false false false 0#4 :: ws := by
  rw [okWords, two]; rfl

section
variable {a : Arch} {sel : BitVec 4} {b : Machine.Instance} {read : Machine.Instance → Option (List Word)}

theorem bufferRead_of_none (named : instanceOf sel = some b) (outside : read b = none) :
    bufferRead a sel read = .raise .indexRange := by
  simp only [bufferRead, named, outside]

theorem bufferRead_of_some {ws : List Word} (named : instanceOf sel = some b) (inside : read b = some ws) :
    bufferRead a sel read = .ok a { data := ws } := by
  simp only [bufferRead, named, inside]

end

/-- Outside CONFIG the ring of EH is not empty and fits its array (10 R28, R37). -/
theorem ehRing_bounds {a : Arch} (h : ArchInv a) (outside : a.lifecycle ≠ .config) :
    0 < a.syncN ∧ a.syncN ≤ a.eh.data.length := by
  obtain ⟨⟨-, -, -, -, size⟩, -, legal, -⟩ := h
  obtain ⟨positive, fits, -⟩ := startLegal_bounds (legal outside)
  exact ⟨positive, size ▸ fits⟩

section
variable {s : State} {sel : BitVec 4} {b : Machine.Instance} {β : Type} [Inhabited β] {c : CBuf β} {n : Nat}
  {data : β → List Word}

/-- CB_RDS where SEL names the buffer `c` of capacity `n`. -/
theorem exec_cbRds_buffer {k : BitVec 16} (admitted : s.arch.lifecycle ≠ .config)
    (named : instanceOf sel = some b) (size : n ≤ c.data.length)
    (read : readSigned s.arch k.toInt b = (c.rds n k.toInt).map data) :
    ((-(n : Int) ≤ k.toInt ∧ k.toInt < n) → ∃ v, c.data[c.slot n k.toInt]? = some v ∧
      exec (.cbRds sel k) s = .next (answered s s.arch (0x00021000#32 :: data v))) ∧
    (¬(-(n : Int) ≤ k.toInt ∧ k.toInt < n) →
      exec (.cbRds sel k) s = .next (answered s s.arch [0x00001005#32])) := by
  have works : commandResult (.cbRds sel k) s.arch = bufferRead s.arch sel (readSigned s.arch k.toInt) :=
    commandResult_inspect rfl admitted
  refine ⟨fun ⟨low, high⟩ => ⟨c.getS n k.toInt, ?_, ?_⟩, fun outside => ?_⟩
  · rw [← CBuf.rds_eq_getElem? size low high, CBuf.rds_of_range low high]
  · rw [CBuf.rds_of_range low high] at read
    exact exec_of_ok (works.trans (bufferRead_of_some named read))
      (okWords_of_two .cbRds (readSigned_length read))
  · rw [CBuf.rds_eq_none.mpr outside] at read
    have words : errorWords Opcode.cbRds.byte .indexRange = [0x00001005#32] := rfl
    exact exec_of_raise (works.trans (bufferRead_of_none named read)) words

/-- CB_RDU where SEL names the buffer `c` of capacity `n`. -/
theorem exec_cbRdu_buffer {j : BitVec 16} (admitted : s.arch.lifecycle ≠ .config)
    (named : instanceOf sel = some b) (positive : 0 < n) (size : n ≤ c.data.length)
    (read : readUnsigned s.arch j.toNat b = (c.rdu n j.toNat).map data) :
    (j.toNat ≤ n → ∃ v, c.data[(c.cur + j.toNat) % n]? = some v ∧
      exec (.cbRdu sel j) s = .next (answered s s.arch (0x00021100#32 :: data v))) ∧
    (n < j.toNat → exec (.cbRdu sel j) s = .next (answered s s.arch [0x00001105#32])) := by
  have works : commandResult (.cbRdu sel j) s.arch = bufferRead s.arch sel (readUnsigned s.arch j.toNat) :=
    commandResult_inspect rfl admitted
  refine ⟨fun inside => ⟨c.getU n j.toNat, ?_, ?_⟩, fun outside => ?_⟩
  · rw [← CBuf.rdu_eq_getElem? positive size inside, CBuf.rdu_of_range inside]
  · rw [CBuf.rdu_of_range inside] at read
    exact exec_of_ok (works.trans (bufferRead_of_some named read))
      (okWords_of_two .cbRdu (readUnsigned_length read))
  · rw [CBuf.rdu_eq_none.mpr outside] at read
    have words : errorWords Opcode.cbRdu.byte .indexRange = [0x00001105#32] := rfl
    exact exec_of_raise (works.trans (bufferRead_of_none named read)) words

end

/-- Settles O30: CONFIG and SEL refuse first, then RAW, IH and EH are one case of a read each. -/
theorem cbRdsReadsSignedOffsets : Obligations.CbRdsReadsSignedOffsets := by
  unfold Obligations.CbRdsReadsSignedOffsets
  refine ⟨fun sel k => congrArg (· :: []) (mkHeader_sel k sel 0x10#8), fun s k => ?_⟩
  refine ⟨fun config sel => ?_, fun admitted sel unnamed => ?_, fun admitted inv => ?_⟩
  · have words : errorWords Opcode.cbRds.byte .badState = [0x00001003#32] := rfl
    exact exec_of_raise (commandResult_inspect_of_config rfl config) words
  · have refused := commandBody_of_badOperand (a := s.arch) (.inl ⟨sel, k, .inl rfl, unnamed⟩)
    have words : errorWords Opcode.cbRds.byte .badOperand = [0x00001007#32] := rfl
    exact exec_of_raise ((commandResult_inspect rfl admitted).trans refused) words
  · obtain ⟨-, ehSize⟩ := ehRing_bounds inv admitted
    obtain ⟨⟨rawSize, -, ihSize, -⟩, -⟩ := inv
    obtain ⟨rawInside, rawOutside⟩ := exec_cbRds_buffer (k := k) (sel := 0#4) admitted rfl rawSize.ge rfl
    obtain ⟨ihInside, ihOutside⟩ := exec_cbRds_buffer (k := k) (sel := 1#4) admitted rfl ihSize.ge rfl
    obtain ⟨ehInside, ehOutside⟩ := exec_cbRds_buffer (k := k) (sel := 2#4) admitted rfl ehSize rfl
    exact ⟨rawInside, rawOutside, ihInside, ihOutside, ehInside, ehOutside⟩

/-- Settles O31, in the cases of O30. -/
theorem cbRduReadsUnsignedOffsets : Obligations.CbRduReadsUnsignedOffsets := by
  unfold Obligations.CbRduReadsUnsignedOffsets
  refine ⟨fun sel j => congrArg (· :: []) (mkHeader_sel j sel 0x11#8), fun s j => ?_⟩
  refine ⟨fun config sel => ?_, fun admitted sel unnamed => ?_, fun admitted inv => ?_⟩
  · have words : errorWords Opcode.cbRdu.byte .badState = [0x00001103#32] := rfl
    exact exec_of_raise (commandResult_inspect_of_config rfl config) words
  · have refused := commandBody_of_badOperand (a := s.arch) (.inl ⟨sel, j, .inr rfl, unnamed⟩)
    have words : errorWords Opcode.cbRdu.byte .badOperand = [0x00001107#32] := rfl
    exact exec_of_raise ((commandResult_inspect rfl admitted).trans refused) words
  · obtain ⟨ehPositive, ehSize⟩ := ehRing_bounds inv admitted
    obtain ⟨⟨rawSize, -, ihSize, -⟩, -⟩ := inv
    obtain ⟨rawInside, rawOutside⟩ :=
      exec_cbRdu_buffer (j := j) (sel := 0#4) admitted rfl (by decide) rawSize.ge rfl
    obtain ⟨ihInside, ihOutside⟩ :=
      exec_cbRdu_buffer (j := j) (sel := 1#4) admitted rfl (by decide) ihSize.ge rfl
    obtain ⟨ehInside, ehOutside⟩ :=
      exec_cbRdu_buffer (j := j) (sel := 2#4) admitted rfl ehPositive ehSize rfl
    exact ⟨rawInside, rawOutside, ihInside, ihOutside, ehInside, ehOutside⟩

end Sys2Proof.Machine
end

section
/-! The phase clock (42_phase_clock.md): rounding keeps the order of sums, which bounds a tick by the tick of the
largest PHASE below TAU at the largest RATE; then what an advance and a reading of PHASE answer. -/

namespace Sys2Proof.Machine

open Sys2Proof.Safety

/-! ## Sums keep the order (00 R10) -/

theorem fkey_fpack (neg : Bool) {m : Nat} (h : m < 2 ^ 31) : fkey (fpack neg m) = signed neg m := by
  rw [fkey, fsign_fpack neg h, fmag_fpack neg h, signed]

theorem roundMag_zero : roundMag 0 1 = 0 := by decide

/-- The key of a rounded sum is the rounded magnitude with the sum's sign; both zeros have the key 0. -/
theorem fkey_roundInt (zeroNeg : Bool) (v : Int) :
    fkey (roundInt zeroNeg v) = signed (decide (v < 0)) (roundMag v.natAbs 1) := by
  rw [roundInt_eq_fpack, fkey_fpack _ (roundMag_lt _ _)]
  by_cases zero : v = 0
  · subst zero
    rw [if_pos rfl, Int.natAbs_zero, roundMag_zero]
    cases zeroNeg <;> rfl
  · rw [if_neg zero]

/-- Rounding keeps the order of signed sums: negative ones stay on their side of zero. -/
theorem fkey_roundInt_mono {v w : Int} (h : v ≤ w) (zeroNeg zeroNeg' : Bool) :
    fkey (roundInt zeroNeg v) ≤ fkey (roundInt zeroNeg' w) := by
  have mono {m n : Nat} (le : m ≤ n) : roundMag m 1 ≤ roundMag n 1 :=
    roundMag_mono Nat.one_pos Nat.one_pos (Nat.mul_le_mul_right 1 le)
  rw [fkey_roundInt, fkey_roundInt]
  by_cases left : v < 0 <;> by_cases right : w < 0 <;>
    simp only [signed, left, right, decide_true, decide_false, Bool.false_eq_true, if_true, if_false]
  · have := mono (show w.natAbs ≤ v.natAbs by omega)
    omega
  · omega
  · omega
  · have := mono (show v.natAbs ≤ w.natAbs by omega)
    omega

theorem fvalue_le_of_fkey_le {x y : Word} (hx : finite x = true) (hy : finite y = true)
    (h : fkey x ≤ fkey y) : fvalue x ≤ fvalue y :=
  Int.not_lt.mp fun lt => Int.not_lt.mpr h ((fkey_lt_iff_fvalue_lt hy hx).mpr lt)

/-- Addition of finite values keeps the order in both operands. -/
theorem fkey_fadd_mono {x x' y y' : Word} (hx : finite x = true) (hx' : finite x' = true)
    (hy : finite y = true) (hy' : finite y' = true) (left : fkey x ≤ fkey x') (right : fkey y ≤ fkey y') :
    fkey (fadd x y) ≤ fkey (fadd x' y') := by
  rw [fadd_finite hx hy, fadd_finite hx' hy']
  exact fkey_roundInt_mono
    (Int.add_le_add (fvalue_le_of_fkey_le hx hx' left) (fvalue_le_of_fkey_le hy hy' right)) _ _

theorem fisNaN_fadd_finite {x y : Word} (hx : finite x = true) (hy : finite y = true) :
    fisNaN (fadd x y) = false := by
  rw [fadd_finite hx hy]; exact fisNaN_roundInt _ _

theorem finite_iff_natAbs_fkey {x : Word} : finite x = true ↔ (fkey x).natAbs < infMag := by
  rw [finite_iff, show (fkey x).natAbs = fmag x from natAbs_signed _ _]

theorem not_nan_of_flt {x y : Word} (h : flt x y = true) : fisNaN x = false ∧ fisNaN y = false := by
  simp only [flt, Bool.and_eq_true, Bool.not_eq_true'] at h
  exact h.1

theorem not_nan_of_fge {x y : Word} (h : fge x y = true) : fisNaN x = false ∧ fisNaN y = false := by
  simp only [fge, Bool.and_eq_true, Bool.not_eq_true'] at h
  exact h.1

/-! ## One advance (42 R160) -/

theorem Arch.advanceBy_of_reaches {a : Arch} {d : Word} (reaches : fge (fadd a.phase d) Config.tau = true) :
    a.advanceBy d = ({ a with phase := fsub (fadd a.phase d) Config.tau },
      some (fsub (fadd a.phase d) Config.tau)) := if_pos reaches

theorem Arch.advanceBy_of_below {a : Arch} {d : Word} (below : fge (fadd a.phase d) Config.tau = false) :
    a.advanceBy d = ({ a with phase := fadd a.phase d }, none) := if_neg (Bool.eq_false_iff.mp below)

/-! ## The bounds of a tick (42 R161) -/

/-- The largest PHASE below TAU. -/
def belowTau : Word := 0x40C90FDA#32

/-- The largest sum, from a PHASE below TAU and a RATE of at most TAU. -/
def largestSum : Word := 0x41490FDA#32

/-- No rounding takes a tick to twice TAU: the exact sum of the largest operands lies half way between
`largestSum` and twice TAU, whose significand is odd, so the tie goes down. -/
theorem fadd_belowTau_tau : fadd belowTau Config.tau = largestSum := by decide +kernel

theorem fkey_sum_le {phase rate : Word} (hp : finite phase = true) (hr : finite rate = true)
    (phaseBelow : fkey phase < fkey Config.tau) (rateAtMost : fkey rate ≤ fkey Config.tau) :
    fkey (fadd phase rate) ≤ fkey largestSum := by
  have next : fkey Config.tau = fkey belowTau + 1 := by decide
  rw [← fadd_belowTau_tau]
  exact fkey_fadd_mono hp (by decide) hr (by decide) (by omega) rateAtMost

/-- What the reduction leaves is in [0, TAU): the subtraction keeps the order, takes TAU itself to a zero and the
largest sum to a value below TAU. -/
theorem fsub_tau_in_range {p : Word} (reaches : fkey Config.tau ≤ fkey p) (atMost : fkey p ≤ fkey largestSum) :
    flt (fsub p Config.tau) Config.tau = true ∧ fge (fsub p Config.tau) f0 = true := by
  have tauKey : fkey Config.tau = 0x40C90FDB := by decide
  have largestKey : fkey largestSum = 0x41490FDA := by decide
  have hp : finite p = true := finite_iff_natAbs_fkey.mpr (by simp only [infMag]; omega)
  have number : fisNaN (fsub p Config.tau) = false := fisNaN_fadd_finite hp (by decide)
  have mono {x y : Word} (hx : finite x = true) (hy : finite y = true) (h : fkey x ≤ fkey y) :
      fkey (fsub x Config.tau) ≤ fkey (fsub y Config.tau) :=
    fkey_fadd_mono hx hy (by decide) (by decide) h le_rfl
  rw [flt_iff number (by decide), fge_iff number (by decide)]
  constructor
  · calc fkey (fsub p Config.tau) ≤ fkey (fsub largestSum Config.tau) := mono hp (by decide) atMost
      _ < fkey Config.tau := by decide +kernel
  · calc fkey f0 = fkey (fsub Config.tau Config.tau) := by decide +kernel
      _ ≤ fkey (fsub p Config.tau) := mono (by decide) hp reaches

/-- A RATE in (0, TAU] is finite. -/
theorem finite_of_rate_in_range {rate : Word} (positive : fgt rate f0 = true)
    (atMost : fge Config.tau rate = true) : finite rate = true := by
  obtain ⟨tauNumber, rateNumber⟩ := not_nan_of_fge atMost
  have tauKey : fkey Config.tau = 0x40C90FDB := by decide
  have low : 0 < fkey rate := (fgt_iff rateNumber (by decide)).mp positive
  have high := (fge_iff tauNumber rateNumber).mp atMost
  exact finite_iff_natAbs_fkey.mpr (by simp only [infMag]; omega)

/-- A tick adds finite values, or leaves an infinite PHASE as it is. -/
theorem finite_or_fadd_eq {phase rate : Word} (number : fisNaN phase = false) (hr : finite rate = true) :
    finite phase = true ∨ fadd phase rate = phase := by
  cases infinite : fisInf phase with
  | false => exact .inl (finite_of_not_special number infinite)
  | true => exact .inr (fadd_inf_finite infinite hr).1

/-- A tick that reports no overrun stores a sum below TAU, one that does stores the overrun, in [0, TAU). -/
theorem Arch.tick_phase_below_tau {a : Arch} (phaseBelow : flt a.phase Config.tau = true)
    (positive : fgt a.rate f0 = true) (atMost : fge Config.tau a.rate = true) :
    flt a.tick.1.phase Config.tau = true ∧ (a.tick.2.isSome = true → fge a.tick.1.phase f0 = true) := by
  obtain ⟨phaseNumber, tauNumber⟩ := not_nan_of_flt phaseBelow
  have rateFinite := finite_of_rate_in_range positive atMost
  have sum := finite_or_fadd_eq phaseNumber rateFinite
  rw [Arch.tick_eq]
  cases reaches : fge (fadd a.phase a.rate) Config.tau with
  | false =>
    rw [Arch.advanceBy_of_below reaches]
    have number : fisNaN (fadd a.phase a.rate) = false := by
      rcases sum with phaseFinite | unchanged
      · exact fisNaN_fadd_finite phaseFinite rateFinite
      · rw [unchanged, phaseNumber]
    rw [fge_eq_not_flt number tauNumber, Bool.not_eq_false'] at reaches
    exact ⟨reaches, nofun⟩
  | true =>
    rw [Arch.advanceBy_of_reaches reaches]
    have phaseFinite : finite a.phase = true := sum.resolve_right fun unchanged => by
      rw [unchanged, fge_eq_not_flt phaseNumber tauNumber, phaseBelow] at reaches
      cases reaches
    have sumNumber := (not_nan_of_fge reaches).1
    have rateNumber := (not_nan_of_fge atMost).2
    have sumAtMost := fkey_sum_le phaseFinite rateFinite ((flt_iff phaseNumber tauNumber).mp phaseBelow)
      ((fge_iff tauNumber rateNumber).mp atMost)
    obtain ⟨below, nonnegative⟩ := fsub_tau_in_range ((fge_iff sumNumber tauNumber).mp reaches) sumAtMost
    exact ⟨below, fun _ => nonnegative⟩

/-! ## What an advance answers (42 R162, R163) -/

section
variable {i : Instr} {s : State} {ws : List Word}

theorem exec_mutate_of_config (hi : mutates i = true) (config : s.arch.lifecycle = .config)
    (words : errorWords i.opcode.byte .badState = ws) : exec i s = .next (answered s s.arch ws) := by
  have refused : BadState i s.arch := .inr ⟨.inr hi, config⟩
  refine exec_of_raise (commandResult_refused (fun n d write => ?_) (badState_iff.mp refused)) words
  subst write; cases hi

theorem exec_mutate_of_fault (hi : mutates i = true) (fault : s.arch.lifecycle = .fault)
    (words : errorWords i.opcode.byte .faulted = ws) : exec i s = .next (answered s s.arch ws) := by
  have refused : Faulted i s.arch := ⟨hi, fault⟩
  refine exec_of_raise (commandResult_refused (fun n d write => ?_) (faulted_iff.mp refused)) words
  subst write; cases hi

theorem commandResult_mutate {a : Arch} (hi : mutates i = true) (run : a.lifecycle = .run) :
    commandResult i a = commandBody i a :=
  commandResult_run (by rw [(cmdClass_opcode_iff i).1.mpr hi, run]; rfl)

/-- A command whose work is an advance by `d`: PC_TICK by RATE, PC_ADV by its operand. -/
def Advances (i : Instr) (a : Arch) (d : Word) : Prop :=
  mutates i = true ∧ commandBody i a = .ok (a.advanceBy d).1 (overrunReply (a.advanceBy d).2)

theorem advances_pcTick (a : Arch) : Advances .pcTick a a.rate := ⟨rfl, rfl⟩

theorem advances_pcAdv (a : Arch) (d : Word) : Advances (.pcAdv d) a d := ⟨rfl, rfl⟩

theorem Advances.exec_eq {d : Word} (h : Advances i s.arch d) (run : s.arch.lifecycle = .run) :
    exec i s = .next (answered s (s.arch.advanceBy d).1
      (okWords i.opcode (overrunReply (s.arch.advanceBy d).2))) :=
  exec_of_ok ((commandResult_mutate h.1 run).trans h.2) rfl

theorem Advances.exec_of_reaches {d : Word} (h : Advances i s.arch d) (run : s.arch.lifecycle = .run)
    (reaches : fge (fadd s.arch.phase d) Config.tau = true)
    (words : okWords i.opcode (overrunReply (some (fsub (fadd s.arch.phase d) Config.tau))) = ws) :
    exec i s = .next (answered s { s.arch with phase := fsub (fadd s.arch.phase d) Config.tau } ws) := by
  rw [h.exec_eq run, Arch.advanceBy_of_reaches reaches, words]

theorem Advances.exec_of_below {d : Word} (h : Advances i s.arch d) (run : s.arch.lifecycle = .run)
    (below : fge (fadd s.arch.phase d) Config.tau = false)
    (words : okWords i.opcode (overrunReply none) = ws) :
    exec i s = .next (answered s { s.arch with phase := fadd s.arch.phase d } ws) := by
  rw [h.exec_eq run, Arch.advanceBy_of_below below, words]

end

theorem okWords_pcTick_overrun (v : Word) : okWords .pcTick (overrunReply (some v)) = [0x00012010#32, v] :=
  congrArg (· :: [v]) (show mkRspHeader 1#2 0x20#8 false false true 0#4 = 0x00012010#32 from rfl)

theorem okWords_pcTick_none : okWords .pcTick (overrunReply none) = [0x00012000#32, 0#32] := rfl

theorem encode_pcAdv (delta : Word) : encode (.pcAdv delta) = [0x00001021#32, delta] :=
  congrArg (· :: [delta]) (show mkHeader 0#16 1#2 0#4 0x21#8 = 0x00001021#32 from rfl)

theorem okWords_pcAdv_overrun (v : Word) : okWords .pcAdv (overrunReply (some v)) = [0x00012110#32, v] :=
  congrArg (· :: [v]) (show mkRspHeader 1#2 0x21#8 false false true 0#4 = 0x00012110#32 from rfl)

theorem okWords_pcAdv_none : okWords .pcAdv (overrunReply none) = [0x00012100#32, 0#32] := rfl

/-- A response with VALID reports an overrun (42 R162). -/
theorem isSome_of_okWords_pcTick {o : Option Word} {v : Word}
    (h : okWords .pcTick (overrunReply o) = [0x00012010#32, v]) : o.isSome = true := by
  cases o with
  | some _ => rfl
  | none =>
    rw [okWords_pcTick_none] at h
    exact absurd (List.cons.inj h).1 (by decide)

/-- Settles O37: the sum of a tick is below twice TAU, so one reduction takes it below TAU. -/
theorem tickStaysBelowTau : Obligations.TickStaysBelowTau := by
  unfold Obligations.TickStaysBelowTau
  intro s t run phaseBelow positive atMost h
  obtain rfl := Host.Outcome.next.inj (((advances_pcTick s.arch).exec_eq run).symm.trans h)
  obtain ⟨below, nonnegative⟩ := Arch.tick_phase_below_tau phaseBelow positive atMost
  exact ⟨below, fun response =>
    nonnegative (isSome_of_okWords_pcTick (List.append_cancel_left response))⟩

/-- Settles O34: PC_TICK is the advance by RATE. -/
theorem pcTickAdvancesByRate : Obligations.PcTickAdvancesByRate := by
  unfold Obligations.PcTickAdvancesByRate
  refine ⟨rfl, fun s => ?_⟩
  have advance := advances_pcTick s.arch
  exact ⟨fun run reaches => advance.exec_of_reaches run reaches (okWords_pcTick_overrun _),
    fun run below => advance.exec_of_below run below okWords_pcTick_none,
    fun config => exec_mutate_of_config rfl config rfl, fun fault => exec_mutate_of_fault rfl fault rfl⟩

/-- Settles O35: PC_ADV is the advance by its operand; a NaN sum reaches nothing, and TAU itself is reduced
to +0.0. -/
theorem pcAdvAdvancesByDelta : Obligations.PcAdvAdvancesByDelta := by
  unfold Obligations.PcAdvAdvancesByDelta
  refine ⟨encode_pcAdv, fun s delta => ?_⟩
  intro a p
  have advance := advances_pcAdv a delta
  have reached (run : a.lifecycle = .run) (reaches : fge p Config.tau = true) :=
    advance.exec_of_reaches run reaches (okWords_pcAdv_overrun _)
  have short (run : a.lifecycle = .run) (below : fge p Config.tau = false) :=
    advance.exec_of_below run below okWords_pcAdv_none
  have badState : errorWords Opcode.pcAdv.byte .badState = [0x00002103#32] := rfl
  have faulted : errorWords Opcode.pcAdv.byte .faulted = [0x00002104#32] := rfl
  refine ⟨reached, short, fun run nan => ?_, fun run exactTau => ?_,
    fun config => exec_mutate_of_config rfl config badState,
    fun fault => exec_mutate_of_fault rfl fault faulted⟩
  · have sum : p = canonicalNaN := fadd_of_nan nan
    have answer := short run (fge_false_of_nan (.inl (sum ▸ by decide)))
    rwa [show fadd s.arch.phase delta = canonicalNaN from sum] at answer
  · have answer := reached run (exactTau ▸ by decide)
    rwa [show fadd s.arch.phase delta = Config.tau from exactTau,
      show fsub Config.tau Config.tau = 0#32 by decide +kernel] at answer

/-! ## Sine and cosine of PHASE (42 R164 to R167) -/

theorem sinOf_of_not_finite {p : Word} (h : finite p = false) : sinOf p = canonicalNaN := by
  have nonzero : p ≠ f0 := fun zero => by rw [zero] at h; cases h
  rw [sinOf, if_neg nonzero, h]; rfl

theorem cosOf_of_not_finite {p : Word} (h : finite p = false) : cosOf p = canonicalNaN := by
  have nonzero : p ≠ f0 := fun zero => by rw [zero] at h; cases h
  rw [cosOf, if_neg nonzero, h]; rfl

theorem okWords_pcSin (v : Word) : okWords .pcSin { data := [v] } = [0x00012200#32, v] :=
  congrArg (· :: [v]) (show mkRspHeader 1#2 0x22#8 false false false 0#4 = 0x00012200#32 from rfl)

theorem okWords_pcCos (v : Word) : okWords .pcCos { data := [v] } = [0x00012300#32, v] :=
  congrArg (· :: [v]) (show mkRspHeader 1#2 0x23#8 false false false 0#4 = 0x00012300#32 from rfl)

/-- Settles O36: the two functions are `sinOf` and `cosOf`, which the three commands read at PHASE. -/
theorem sineCosineAndPhasor : Obligations.SineCosineAndPhasor := by
  unfold Obligations.SineCosineAndPhasor
  refine ⟨rfl, rfl, rfl, sinOf, cosOf, rfl, rfl,
    fun p special => ⟨sinOf_of_not_finite special, cosOf_of_not_finite special⟩, fun s => ⟨?_, ?_⟩⟩
  · intro admitted
    exact ⟨exec_of_ok (commandResult_inspect rfl admitted) (okWords_pcSin _),
      exec_of_ok (commandResult_inspect rfl admitted) (okWords_pcCos _),
      exec_of_ok (commandResult_inspect rfl admitted) (okWords_of_two .pcPhasor rfl)⟩
  · intro config
    exact ⟨exec_of_raise (commandResult_inspect_of_config rfl config) rfl,
      exec_of_raise (commandResult_inspect_of_config rfl config) rfl,
      exec_of_raise (commandResult_inspect_of_config rfl config) rfl⟩

end Sys2Proof.Machine
end

section
/-! The PI loop filter (43_pi_loop_filter.md): one update and a sequence of updates through commands, then the
filter with one gain a zero and the rounding error its integrator accumulates. -/

namespace Sys2Proof.Machine

open Sys2Proof.Safety

/-! ## Zero gains (00 R10) -/

/-- Addition with a finite operand commutes, whatever the class of the other. -/
theorem fadd_comm_of_finite {x : Word} (hx : finite x = true) (y : Word) : fadd x y = fadd y x := by
  rcases fclass y with ⟨nan, -, -⟩ | ⟨-, infinite, -⟩ | ⟨-, -, hy⟩
  · rw [fadd_of_nan (.inr nan), fadd_of_nan (.inl nan)]
  · obtain ⟨right, left⟩ := fadd_inf_finite infinite hx
    rw [left, right]
  · rw [fadd_finite hx hy, fadd_finite hy hx, Int.add_comm, Bool.and_comm]

/-- The sum of +0.0 and a result of the arithmetic is that result, but for -0.0, which becomes +0.0. -/
theorem posZero_fadd {x : Word} (number : NaNIsCanonical x) :
    fadd 0x00000000#32 x = if x = 0x80000000#32 then 0x00000000#32 else x := by
  split
  · next negZero => rw [negZero]; decide
  · next other => rw [fadd_comm_of_finite (by decide), fadd_zero (by decide) other number]

/-- The product of a zero and an infinity is invalid, as any product with a NaN is. -/
theorem fmul_zero_of_not_finite {z e : Word} (hz : fisZero z = true) (he : finite e = false) :
    fmul z e = canonicalNaN := by
  have hf := not_special_of_finite (finite_of_zero hz)
  rcases fclass e with ⟨nan, -, -⟩ | ⟨nan, infinite, -⟩ | ⟨-, -, fin⟩
  · exact fmul_of_nan (.inr nan)
  · simp [fmul, hf, nan, infinite, hz]
  · rw [he] at fin; cases fin

/-! ## One update (43 R183) -/

section
variable {s : State}

theorem encode_piUpdate (e : Word) : encode (.piUpdate e) = [0x00001030#32, e] :=
  congrArg (· :: [e]) (show mkHeader 0#16 1#2 0#4 0x30#8 = 0x00001030#32 from rfl)

theorem okWords_piUpdate (v : Word) : okWords .piUpdate { data := [v] } = [0x00013000#32, v] :=
  congrArg (· :: [v]) (show mkRspHeader 1#2 0x30#8 false false false 0#4 = 0x00013000#32 from rfl)

theorem exec_piUpdate (run : s.arch.lifecycle = .run) (e : Word) :
    exec (.piUpdate e) s = .next (answered s { s.arch with integ := piIntegrator s.arch.ki s.arch.integ e }
      [0x00013000#32, piOutput s.arch.kp (piIntegrator s.arch.ki s.arch.integ e) e]) :=
  exec_of_ok (commandResult_mutate rfl run) (okWords_piUpdate _)

/-- Settles O39: in RUN the work is `pi_update`, and the class check refuses it in the other two states. -/
theorem piUpdateFilters : Obligations.PiUpdateFilters := by
  unfold Obligations.PiUpdateFilters
  have badState : errorWords Opcode.piUpdate.byte .badState = [0x00003003#32] := rfl
  have faulted : errorWords Opcode.piUpdate.byte .faulted = [0x00003004#32] := rfl
  exact ⟨encode_piUpdate, fun s e => ⟨fun run => exec_piUpdate run e,
    fun config => exec_mutate_of_config rfl config badState,
    fun fault => exec_mutate_of_fault rfl fault faulted⟩⟩

/-! ## A sequence of updates -/

/-- The integrator after updates with the errors `es`, each as `piIntegrator` gives it. -/
def integrated (ki integ : Word) (es : List Word) : Word := es.foldl (piIntegrator ki) integ

theorem integrated_concat (ki integ : Word) (es : List Word) (e : Word) :
    integrated ki integ (es ++ [e]) = piIntegrator ki (integrated ki integ es) e :=
  List.foldl_concat _ _ _ _

theorem runAll_cons_of_next {i : Instr} {t : State} (h : exec i s = .next t) (is : List Instr) :
    runAll s (i :: is) = runAll t is := by
  rw [runAll, h]

/-- Updates write INTEG only, whatever the errors. -/
theorem arch_runAll_piUpdate (run : s.arch.lifecycle = .run) (es : List Word) :
    (runAll s (es.map .piUpdate)).arch =
      { s.arch with integ := integrated s.arch.ki s.arch.integ es } := by
  induction es generalizing s with
  | nil => rfl
  | cons e es ih =>
    refine (congrArg State.arch (runAll_cons_of_next (exec_piUpdate run e) _)).trans (ih ?_)
    exact run

/-- No sequence of updates takes INTEG to -0.0 or to a NaN with a payload, once it is neither. -/
theorem integrated_number {ki integ : Word} (negZero : integ ≠ 0x80000000#32) (nan : NaNIsCanonical integ)
    (es : List Word) :
    integrated ki integ es ≠ 0x80000000#32 ∧ NaNIsCanonical (integrated ki integ es) := by
  induction es generalizing integ with
  | nil => exact ⟨negZero, nan⟩
  | cons e es ih => exact ih (fadd_ne_negZero negZero) fadd_nan

/-! ## One gain a zero (43 R184) -/

/-- With KI a zero, a finite error leaves an INTEG of +0.0. -/
theorem piIntegrator_of_ki_zero {ki e : Word} (hki : fisZero ki = true) (he : finite e = true) :
    piIntegrator ki 0x00000000#32 e = 0x00000000#32 :=
  fadd_zero (fisZero_fmul_zero hki he) (by decide) (by decide)

/-- With KP a zero, the output is the integrator after the update, but for an infinite error, whose product
with the zero is a NaN; a NaN error has made the integrator that NaN. -/
theorem piOutput_of_kp_zero {ki kp integ e : Word} (hkp : fisZero kp = true)
    (negZero : piIntegrator ki integ e ≠ 0x80000000#32) :
    piOutput kp (piIntegrator ki integ e) e =
      if fisInf e = true then 0x7FC00000#32 else piIntegrator ki integ e := by
  rcases fclass e with ⟨nan, number, special⟩ | ⟨-, infinite, special⟩ | ⟨-, number, he⟩
  · have sum : piIntegrator ki integ e = canonicalNaN := by
      rw [piIntegrator, fmul_of_nan (.inr nan), fadd_of_nan (.inr (by decide))]
    rw [number, if_neg (by decide), sum]
    exact fadd_of_nan (.inl (by decide))
  · rw [if_pos infinite, piOutput, fmul_zero_of_not_finite hkp special]
    exact fadd_of_nan (.inr (by decide))
  · rw [number, if_neg (by decide)]
    exact fadd_zero (fisZero_fmul_zero hkp he) negZero fadd_nan

theorem exec_piUpdate_of_ki_zero (run : s.arch.lifecycle = .run) (hki : fisZero s.arch.ki = true)
    (integ : s.arch.integ = 0x00000000#32) {e : Word} (he : finite e = true) :
    exec (.piUpdate e) s = .next (answered s s.arch [0x00013000#32,
      if fmul s.arch.kp e = 0x80000000#32 then 0x00000000#32 else fmul s.arch.kp e]) := by
  have unchanged : piIntegrator s.arch.ki s.arch.integ e = s.arch.integ := by
    rw [integ, piIntegrator_of_ki_zero hki he]
  rw [exec_piUpdate run, unchanged, piOutput, integ, posZero_fadd (nanIsCanonical_fmul _ _), ← integ]

theorem exec_piUpdate_of_kp_zero (run : s.arch.lifecycle = .run) (hkp : fisZero s.arch.kp = true)
    (integ : s.arch.integ = 0x00000000#32) (es : List Word) (e : Word) :
    let t := runAll s (es.map .piUpdate)
    let sum := integrated s.arch.ki 0x00000000#32 (es ++ [e])
    exec (.piUpdate e) t = .next (answered t { s.arch with integ := sum }
      [0x00013000#32, if fisInf e = true then 0x7FC00000#32 else sum]) := by
  intro t sum
  have left : t.arch = { s.arch with integ := integrated s.arch.ki 0x00000000#32 es } :=
    integ ▸ arch_runAll_piUpdate run es
  have last : sum = piIntegrator s.arch.ki (integrated s.arch.ki 0x00000000#32 es) e :=
    integrated_concat _ _ _ _
  have negZero : sum ≠ 0x80000000#32 :=
    (integrated_number (by decide) (nanIsCanonical_of_not_nan (by decide)) _).1
  have answer := exec_piUpdate (s := t) (by rw [left, run]) e
  rw [left] at answer
  rw [last] at negZero ⊢
  rw [← piOutput_of_kp_zero hkp negZero]
  exact answer

end

/-! ## The error of the integrator (43 R184, 90 C7) -/

section
variable (c : Word) (es : List Word)

/-- INTEG after the first `k` errors, from +0.0 with KI = `c`. -/
def integAfter (k : Nat) : Word := integrated c 0x00000000#32 (es.take k)

/-- `c` times the sum of the first `k` errors, in units of 2^-298. -/
def exactAfter (k : Nat) : Int := fvalue c * ((es.take k).map fvalue).sum

/-- What update `i` may add to the error: one rounding of its product and one of its addition, in units of
2^-322. -/
def updateError (i : Nat) : Nat :=
  (fvalue c * fvalue (es.getD i 0x00000000#32)).natAbs + 2 ^ 172 +
    (fvalue (integAfter c es i) + fvalue (fmul c (es.getD i 0x00000000#32))).natAbs * 2 ^ 149

variable {c es} {k : Nat}

@[simp] theorem fvalue_integAfter_zero : fvalue (integAfter c es 0) = 0 := by
  rw [show integAfter c es 0 = 0x00000000#32 from rfl]; decide

@[simp] theorem exactAfter_zero : exactAfter c es 0 = 0 := Int.mul_zero _

theorem take_succ_eq_concat_getD (hk : k < es.length) :
    es.take (k + 1) = es.take k ++ [es.getD k 0x00000000#32] := by
  rw [← List.take_append_getElem hk, List.getD_eq_getElem _ _ hk]

theorem integAfter_succ (hk : k < es.length) :
    integAfter c es (k + 1) = fadd (integAfter c es k) (fmul c (es.getD k 0x00000000#32)) := by
  rw [integAfter, take_succ_eq_concat_getD hk, integrated_concat, piIntegrator, integAfter]

theorem exactAfter_succ (hk : k < es.length) :
    exactAfter c es (k + 1) = exactAfter c es k + fvalue c * fvalue (es.getD k 0x00000000#32) := by
  rw [exactAfter, take_succ_eq_concat_getD hk, List.map_append, List.sum_append, mul_add, exactAfter,
    List.map_singleton, List.sum_singleton]

/-- The errors of the updates add up: a step keeps the error so far and adds those of its product and of its
addition. -/
theorem integAfter_error (hk : k ≤ es.length) (fin : finite (integAfter c es k) = true) :
    2 ^ 24 * (fvalue (integAfter c es k) * 2 ^ 149 - exactAfter c es k).natAbs ≤
      ((List.range k).map (updateError c es)).sum := by
  induction k with
  | zero => simp
  | succ k ih =>
    rw [integAfter_succ hk] at fin ⊢
    obtain ⟨finSum, finProduct⟩ := finite_of_fadd fin
    have before := ih (Nat.le_of_succ_le hk) finSum
    have product := fmul_error finProduct
    have addition := fadd_error fin
    rw [exactAfter_succ hk, List.range_succ, List.map_append, List.sum_append, List.map_singleton,
      List.sum_singleton, updateError]
    omega

/-- Updates whose products and additions do not round keep the integrator exact. -/
theorem integAfter_exact (hk : k ≤ es.length)
    (unrounded : ∀ i, i < es.length →
      fvalue (fmul c (es.getD i 0x00000000#32)) * 2 ^ 149 = fvalue c * fvalue (es.getD i 0x00000000#32) ∧
      fvalue (integAfter c es (i + 1)) =
        fvalue (integAfter c es i) + fvalue (fmul c (es.getD i 0x00000000#32))) :
    fvalue (integAfter c es k) * 2 ^ 149 = exactAfter c es k := by
  induction k with
  | zero => simp
  | succ k ih =>
    obtain ⟨product, addition⟩ := unrounded k hk
    rw [addition, add_mul, ih (Nat.le_of_succ_le hk), product, exactAfter_succ hk]

theorem exactAfter_length : exactAfter c es es.length = fvalue c * (es.map fvalue).sum := by
  rw [exactAfter, List.take_length]

end

/-- Settles O40: the two runs of the filter are `exec_piUpdate` with a zero product in it, and the sum is
`integAfter` at the number of errors. -/
theorem piWithOneGainZero : Obligations.PiWithOneGainZero := by
  unfold Obligations.PiWithOneGainZero
  refine ⟨fun s e run hki integ he => exec_piUpdate_of_ki_zero run hki integ he,
    fun s es e run hkp integ => exec_piUpdate_of_kp_zero run hkp integ es e, fun c es => ?_⟩
  intro n e sum exactSum fin
  have total : exactAfter c es n = exactSum := exactAfter_length
  constructor
  · rw [← total]
    exact integAfter_error le_rfl fin
  · intro unrounded
    rw [← total]
    exact integAfter_exact le_rfl unrounded

end Sys2Proof.Machine
end

section
/-! The interpolator (44_interpolator.md): the four newest samples of a history, and the weighted sum INTERP
answers with. -/

namespace Sys2Proof.Machine

open Sys2Proof.Safety

/-! ## The taps (44 R190, R192) -/

/-- The sample `i` before the newest, by its slot in the array. -/
theorem CBuf.getElem?_newest {α : Type} [Inhabited α] {n i : Nat} {b : CBuf α} (size : n ≤ b.data.length)
    (hi : i < n) : b.data[(b.cur + (n - 1 - i)) % n]? = some (b.getS n (-(i : Int))) := by
  have slot : b.slot n (-(i : Int)) < n := CBuf.slot_lt (by omega) _
  rw [← CBuf.slot_neg hi, CBuf.getS, CBuf.some_slotVal (by omega)]

/-! ## INTERP (44 R193) -/

theorem encode_interp (mu : Word) : encode (.interp mu) = [0x00001040#32, mu] :=
  congrArg (· :: [mu]) (show mkHeader 0#16 1#2 0#4 0x40#8 = 0x00001040#32 from rfl)

theorem muLegal_iff {mu : Word} :
    muLegal mu = true ↔ fge mu 0x00000000#32 = true ∧ flt mu 0x3F800000#32 = true :=
  Bool.and_eq_true_iff

section
variable {s : State} {mu : Word}

/-- A legal `mu` answers the interpolation of RAW there. -/
theorem exec_interp (admitted : s.arch.lifecycle ≠ .config) (legal : muLegal mu = true) :
    exec (.interp mu) s = .next (answered s s.arch
      [0x00024000#32, (interpolate s.arch.raw mu).re, (interpolate s.arch.raw mu).im]) := by
  have works : commandBody (.interp mu) s.arch =
      .ok s.arch { data := [(interpolate s.arch.raw mu).re, (interpolate s.arch.raw mu).im] } := if_pos legal
  exact exec_of_ok ((commandResult_inspect rfl admitted).trans works) (okWords_of_two .interp rfl)

theorem exec_interp_of_illegal (admitted : s.arch.lifecycle ≠ .config)
    (outside : ¬(fge mu 0x00000000#32 = true ∧ flt mu 0x3F800000#32 = true)) :
    exec (.interp mu) s = .next (answered s s.arch [0x00004007#32]) := by
  have refused : commandBody (.interp mu) s.arch = .raise .badOperand :=
    commandBody_of_badOperand (.inr ⟨mu, rfl, outside⟩)
  have words : errorWords Opcode.interp.byte .badOperand = [0x00004007#32] := rfl
  exact exec_of_raise ((commandResult_inspect rfl admitted).trans refused) words

end

/-- Settles O41: the taps are the samples 3, 2, 1 and 0 before the newest, which the invariant has in the
array. -/
theorem interpWeighsTheNewestSamples : Obligations.InterpWeighsTheNewestSamples := by
  unfold Obligations.InterpWeighsTheNewestSamples
  refine ⟨encode_interp, fun s mu => ?_⟩
  intro a mm1 mm2 mp1 wA wB wC wD sum inRange
  have badState : errorWords Opcode.interp.byte .badState = [0x00004003#32] := rfl
  refine ⟨fun admitted inv legal => ?_, exec_interp_of_illegal,
    fun config => exec_of_raise (commandResult_inspect_of_config rfl config) badState⟩
  obtain ⟨⟨rawSize, -⟩, -⟩ := inv
  have tap {i : Nat} (hi : i < 8) := CBuf.getElem?_newest rawSize.ge hi
  have weighted : sum = weightedSum (lagrangeWeights mu) := rfl
  refine ⟨_, _, _, _, tap (i := 3) (by decide), tap (i := 2) (by decide), tap (i := 1) (by decide),
    tap (i := 0) (by decide), ?_⟩
  rw [weighted]
  exact exec_interp admitted (muLegal_iff.mpr legal)

end Sys2Proof.Machine
end

section
/-! Automatic gain control (45_agc.md): the smoothed power after a sample, and AGC_TICK, which divides the
sample by its root. -/

namespace Sys2Proof.Machine

open Sys2Proof.Safety

/-- The smoothed power after the sample `x`: AGC_ALPHA weights its power and AGC_OMA the estimate before it
(45 R200). -/
def Arch.smoothedPower (a : Arch) (x : Cplx) : Word :=
  fadd (fmul a.agcAlpha (samplePower x)) (fmul a.agcOma a.agcP)

theorem Arch.agcStep_eq (a : Arch) (x : Cplx) : a.agcStep x =
    ({ a with agcP := a.smoothedPower x },
      ⟨fdiv x.re (fsqrt (a.smoothedPower x)), fdiv x.im (fsqrt (a.smoothedPower x))⟩) := rfl

theorem encode_agcTick (re im : Word) : encode (.agcTick re im) = [0x00002050#32, re, im] :=
  congrArg (· :: [re, im]) (show mkHeader 0#16 2#2 0#4 0x50#8 = 0x00002050#32 from rfl)

/-- In RUN the class check admits AGC_TICK and its body is `agcStep`, which no value of the sample or of AGC_P
can make fail (45 R201, R202). -/
theorem exec_agcTick {s : State} (run : s.arch.lifecycle = .run) (re im : Word) :
    exec (.agcTick re im) s = .next (answered s { s.arch with agcP := s.arch.smoothedPower ⟨re, im⟩ }
      [0x00025000#32, fdiv re (fsqrt (s.arch.smoothedPower ⟨re, im⟩)),
        fdiv im (fsqrt (s.arch.smoothedPower ⟨re, im⟩))]) := by
  have works : commandBody (.agcTick re im) s.arch = .ok (s.arch.agcStep ⟨re, im⟩).1
      { data := [(s.arch.agcStep ⟨re, im⟩).2.re, (s.arch.agcStep ⟨re, im⟩).2.im] } := rfl
  rw [Arch.agcStep_eq] at works
  exact exec_of_ok ((commandResult_mutate rfl run).trans works) (okWords_of_two .agcTick rfl)

/-- Settles O42: in RUN the work is `agc_step`, and the class check refuses it in the other two states. -/
theorem agcTickNormalizes : Obligations.AgcTickNormalizes := by
  unfold Obligations.AgcTickNormalizes
  have badState : errorWords Opcode.agcTick.byte .badState = [0x00005003#32] := rfl
  have faulted : errorWords Opcode.agcTick.byte .faulted = [0x00005004#32] := rfl
  exact ⟨encode_agcTick, fun s re im => ⟨fun run => exec_agcTick run re im,
    fun config => exec_mutate_of_config rfl config badState,
    fun fault => exec_mutate_of_fault rfl fault faulted⟩⟩

end Sys2Proof.Machine
end

section
/-! The Gardner timing-error estimator (46_gardner_ted.md): the window of three interpolated samples, and TED,
which answers their error. -/

namespace Sys2Proof.Machine

open Sys2Proof.Safety

/-! ## The window (41 R143, 46 R210) -/

section
variable {α : Type} [Inhabited α] {n : Nat} {b : CBuf α}

/-- The sample at an unsigned offset, by its slot in the array. -/
theorem CBuf.getElem?_unsigned (size : n ≤ b.data.length) {j : Nat} (hj : j < n) :
    b.data[(b.cur + j) % n]? = some (b.getU n j) := by
  rw [← CBuf.rdu_eq_getElem? (by omega) size hj.le, CBuf.rdu_of_range hj.le]

/-- The cursor is the slot of the oldest element. -/
theorem CBuf.getElem?_oldest (size : n ≤ b.data.length) (hc : b.cur < n) :
    b.data[b.cur]? = some (b.getU n 0) := by
  rw [← CBuf.getElem?_unsigned size (by omega), add_zero, Nat.mod_eq_of_lt hc]

end

/-! ## TED (46 R211) -/

theorem encode_ted : encode .ted = [0x00000060#32] :=
  congrArg (· :: []) (show mkHeader 0#16 0#2 0#4 0x60#8 = 0x00000060#32 from rfl)

theorem okWords_ted (e : Word) : okWords .ted { data := [e] } = [0x00016000#32, e] :=
  congrArg (· :: [e]) (show mkRspHeader 1#2 0x60#8 false false false 0#4 = 0x00016000#32 from rfl)

/-- Outside CONFIG, in FAULT too, TED answers the error of the samples in IH and changes nothing. -/
theorem exec_ted {s : State} (admitted : s.arch.lifecycle ≠ .config) :
    exec .ted s = .next (answered s s.arch [0x00016000#32, gardner s.arch.ih]) :=
  exec_of_ok (commandResult_inspect rfl admitted) (okWords_ted _)

/-- Settles O43: the window of `gardner` is the offsets 0, 1 and 2, which the invariant has in the array, the
first of them at the cursor. -/
theorem tedEstimatesTheTimingError : Obligations.TedEstimatesTheTimingError := by
  unfold Obligations.TedEstimatesTheTimingError
  refine ⟨encode_ted, fun s => ⟨fun admitted inv => ?_, fun config => ?_⟩⟩
  · obtain ⟨⟨-, -, ihSize, ihCur, -⟩, -⟩ := inv
    have sample {j : Nat} (hj : j < 3) := CBuf.getElem?_unsigned ihSize.ge hj
    exact ⟨_, _, _, CBuf.getElem?_oldest ihSize.ge ihCur, sample (j := 1) (by decide),
      sample (j := 2) (by decide), exec_ted admitted⟩
  · have badState : errorWords Opcode.ted.byte .badState = [0x00006003#32] := rfl
    exact exec_of_raise (commandResult_inspect_of_config rfl config) badState

end Sys2Proof.Machine
end

section
/-! Resets and the framing of the command port (70_reset_and_hazards.md, 60 R280, R283): what an edge with
`rst_n` = 0 leaves, what the last word of a command does whether the command is accepted or rejected, and why
three zero words end any command. -/

namespace Sys2Proof.Machine

open Sys2Proof.Safety

/-! ## Resets (70 R310 to R312) -/

theorem step_of_rstN {s : State} {es : List PortEvent} (h : s.cmdPort = .rstN :: es) :
    step s = .next (s.advancePort es).pinReset := by simp [step, h]

/-- Settles O12: the pin's update looks at no field of the state. -/
theorem pinResetFromEveryState : Obligations.PinResetFromEveryState := by
  unfold Obligations.PinResetFromEveryState
  intro s es port
  exact step_of_rstN port

/-- Settles O11: RESET answers the reset state by O26, the pin by O12. -/
theorem resetValues : Obligations.ResetValues := by
  unfold Obligations.ResetValues
  refine ⟨rfl, rfl, rfl, fun s t h => ?_, fun s t es port h => ?_⟩
  · obtain ⟨-, resets, -⟩ := resetCommandResetsEverything
    obtain rfl := Host.Outcome.next.inj ((resets s).symm.trans h)
    rfl
  · obtain rfl := Host.Outcome.next.inj ((pinResetFromEveryState s es port).symm.trans h)
    rfl

/-- Settles O14: there is no command in progress at reset. -/
theorem resetMeetsInvariant : Obligations.ResetMeetsInvariant := by
  unfold Obligations.ResetMeetsInvariant
  exact ⟨archInv_reset, .inl rfl⟩

/-! ## Every step answers a next state (60 R280) -/

/-- Settles O13: of the things a step can do, only a command could stop, and a finished command does not. -/
theorem noStepStops : Obligations.NoStepStops := by
  unfold Obligations.NoStepStops
  intro s
  rcases step_cases s with
    ⟨-, e⟩ | ⟨es, -, e⟩ | ⟨es, -, e⟩ | ⟨w, es, i, rest, -, -, e⟩ | ⟨w, es, err, -, -, e⟩
  · exact ⟨_, e⟩
  · exact ⟨_, e⟩
  · exact ⟨_, e⟩
  · rw [finish_eq_answered] at e
    exact ⟨_, e⟩
  · exact ⟨_, e⟩

/-! ## The last word of a command (60 R283) -/

/-- Only a missing data word leaves a command incomplete (20 R62). -/
theorem decode_eq_truncated_iff {h : Word} {ws : List Word} :
    decode (h :: ws) = .error .truncated ↔ ws.length < hdrLen h := by
  refine ⟨fun e => ?_, decode_truncated⟩
  rcases decode_cases h ws with ⟨short, -⟩ | ⟨-, -, e'⟩ | ⟨o, -, -, -, e'⟩ | ⟨o, -, -, -, e'⟩
  · exact short
  all_goals cases e'.symm.trans e

theorem decode_ne_noHeader (h : Word) (ws : List Word) : decode (h :: ws) ≠ .error .noHeader := by
  rcases decode_cases h ws with ⟨-, e⟩ | ⟨-, -, e⟩ | ⟨o, -, -, -, e⟩ | ⟨o, -, -, -, e⟩ <;> simp [e]

/-- A response `h` keeps the promise of 60 R283 between the states `a` and `b` of the block: a code other than OK
and DIVERGED changes no state. -/
def ErrorKeepsState (a b : Arch) (h : Word) : Prop :=
  h.extractLsb' 0 4 ≠ 0#4 → h.extractLsb' 0 4 ≠ 9#4 → b = a

/-- The result of a command changes the state only as OK or DIVERGED. -/
theorem CmdResult.errorKeepsState (o : Opcode) (a : Arch) (r : CmdResult) :
    ErrorKeepsState a (r.leaves a) (r.header o) := by
  intro notOk notDiverged
  rw [CmdResult.header_rc] at notOk notDiverged
  cases r with
  | ok b rep => exact absurd rfl notOk
  | raise rc => rfl
  | diverge b => exact absurd rfl notDiverged

/-- A word that leaves no command incomplete ends the frame and is answered once, accepted or rejected. -/
theorem step_of_complete {s : State} {w : Word} {es : List PortEvent} (port : s.cmdPort = .word w :: es)
    (complete : decode (s.frameWith w) ≠ .error .truncated) :
    ∃ b h ds, step s = .next { arch := b, taken := [], cmdPort := es, rspPort := s.rspPort ++ h :: ds } ∧
      ErrorKeepsState s.arch b h := by
  cases decoded : decode (s.frameWith w) with
  | ok r =>
    obtain ⟨i, rest⟩ := r
    have ends := step_of_accepted port decoded
    rw [exec_eq_finish, finish_eq_answered] at ends
    exact ⟨_, _, _, ends, CmdResult.errorKeepsState i.opcode s.arch _⟩
  | error e =>
    have ends := step_of_rejected port decoded
    cases e with
    | truncated => exact absurd decoded complete
    | noHeader =>
      obtain ⟨h, ds, frame⟩ := s.frameWith_cons w
      exact absurd (frame ▸ decoded) (decode_ne_noHeader h ds)
    | illegalOpcode | reservedField => exact ⟨_, _, _, ends, fun _ _ => rfl⟩

/-- Settles O18, from the state that the last word of a command leaves. -/
theorem errorsChangeNoState : Obligations.ErrorsChangeNoState := by
  unfold Obligations.ErrorsChangeNoState
  intro s t w es port complete h
  obtain ⟨b, hd, ds, e, keeps⟩ := step_of_complete port complete
  obtain rfl := Host.Outcome.next.inj (e.symm.trans h)
  exact ⟨rfl, rfl, hd, ds, rfl, keeps⟩

/-! ## Zero words (70 R324) -/

/-- At most `k` words complete the command in progress, if there is one. -/
def CompletesWithin (k : Nat) (taken : List Word) : Prop :=
  taken = [] ∨ (1 ≤ k ∧ ∀ h ds, taken = h :: ds → hdrLen h ≤ ds.length + k)

/-- LEN is at most 3. -/
theorem completesWithin_three (taken : List Word) : CompletesWithin 3 taken :=
  .inr ⟨by decide, fun h ds _ => by have := hdrLen_lt h; omega⟩

theorem completesWithin_zero {taken : List Word} : CompletesWithin 0 taken ↔ taken = [] := by
  simp [CompletesWithin]

/-- A zero word at a command boundary is a NOP, and inside a command a data word: it brings the end of the command
nearer, and a new one does not stay open. -/
theorem step_of_zero_word {s : State} {es : List PortEvent} {k : Nat} (port : s.cmdPort = .word 0#32 :: es)
    (within : CompletesWithin (k + 1) s.taken) :
    ∃ t, step s = .next t ∧ t.cmdPort = es ∧ CompletesWithin k t.taken := by
  by_cases incomplete : decode (s.frameWith 0#32) = .error .truncated
  · refine ⟨_, step_of_rejected port incomplete, rfl, ?_⟩
    cases taken : s.taken with
    | nil =>
      rw [State.frameWith, taken] at incomplete
      exact absurd incomplete (by decide)
    | cons h ds =>
      have frame : s.frameWith 0#32 = h :: (ds ++ [0#32]) := by rw [State.frameWith, taken]; rfl
      have short := decode_eq_truncated_iff.mp (frame ▸ incomplete)
      obtain ⟨-, bound⟩ := within.resolve_left (by simp [taken])
      have bound := bound h ds taken
      rw [List.length_append, List.length_singleton] at short
      refine .inr ⟨by omega, fun h' ds' e => ?_⟩
      obtain ⟨rfl, rfl⟩ := List.cons.inj (frame.symm.trans e)
      rw [List.length_append, List.length_singleton]
      omega
  · obtain ⟨b, h, ds, e, -⟩ := step_of_complete port incomplete
    exact ⟨_, e, rfl, .inl rfl⟩

/-- Settles O9: LEN is at most 3, and each of the three words brings the end of the command nearer. -/
theorem threeZeroWordsResynchronise : Obligations.ThreeZeroWordsResynchronise := by
  unfold Obligations.ThreeZeroWordsResynchronise
  intro s es port
  obtain ⟨t1, step1, port1, within1⟩ := step_of_zero_word port (completesWithin_three s.taken)
  obtain ⟨t2, step2, port2, within2⟩ := step_of_zero_word port1 within1
  obtain ⟨t3, step3, port3, within3⟩ := step_of_zero_word port2 within2
  exact ⟨t1, t2, t3, step1, step2, step3, completesWithin_zero.mp within3, port3⟩

end Sys2Proof.Machine
end

section
/-! The lifecycle (60_exceptions.md): which commands move STATE, and what FAULT freezes. Both are read off how
every command ends. -/

namespace Sys2Proof.Machine

open Sys2Proof.Safety

/-! ## STATE after a command (60 R290) -/

section
variable {i : Instr} {a : Arch} {r : CmdResult}

/-- In CONFIG, commands other than RESET and START leave STATE. -/
theorem CommandEnds.stays_config (h : CommandEnds i a r) (notReset : i ≠ .reset) (notStart : i ≠ .start)
    (config : a.lifecycle = .config) : (r.leaves a).lifecycle = .config := by
  cases h with
  | reset command => exact absurd command notReset
  | started command => exact absurd command notStart
  | refused | read => exact config
  | stored n c d => rw [CmdResult.leaves, csrStore_frame]; exact config
  | worked _ _ run | diverged _ run => cases config.symm.trans run

/-- In RUN only a divergence leaves RUN. -/
theorem CommandEnds.stays_run (h : CommandEnds i a r) (notReset : i ≠ .reset) (run : a.lifecycle = .run)
    (completes : r.code ≠ .diverged) : (r.leaves a).lifecycle = .run := by
  cases h with
  | reset command => exact absurd command notReset
  | refused | read => exact run
  | started _ config | stored _ _ _ _ config => cases run.symm.trans config
  | worked b r _ work => exact work.lifecycle_eq.trans run
  | diverged => exact absurd rfl completes

/-- In FAULT no command but RESET changes anything. -/
theorem CommandEnds.leaves_of_fault (h : CommandEnds i a r) (notReset : i ≠ .reset)
    (fault : a.lifecycle = .fault) : r.leaves a = a := by
  cases h with
  | reset command => exact absurd command notReset
  | refused | read => rfl
  | started _ config | stored _ _ _ _ config => cases fault.symm.trans config
  | worked _ _ run | diverged _ run => cases fault.symm.trans run

end

/-- START moves CONFIG to RUN exactly with a legal configuration (40 R122). -/
theorem commandResult_start_lifecycle {a : Arch} (config : a.lifecycle = .config) :
    ((commandResult .start a).leaves a).lifecycle = if startLegal a = true then .run else .config := by
  rw [commandResult_start config]
  split
  · rfl
  · exact config

/-- DIVERGED is no error of the order of 60 R281: it is answered with the trap entry only. -/
theorem commandResult_ne_raise_diverged (i : Instr) (a : Arch) : commandResult i a ≠ .raise .diverged := by
  intro raised
  have other {rc : ResultCode} (e : commandResult i a = .raise rc) (ne : rc ≠ .diverged) : False :=
    ne (CmdResult.raise.inj (e.symm.trans raised))
  by_cases csr : BadCsr i a
  · exact other (commandResult_of_badCsr csr) (by decide)
  by_cases faulted : Faulted i a
  · exact other (commandResult_of_classError csr (faulted_iff.mp faulted)) (by decide)
  by_cases state : BadState i a
  · exact other (commandResult_of_classError csr (badState_iff.mp state)) (by decide)
  have works := commandResult_of_admitted faulted state
  by_cases operand : BadOperand i
  · exact other (works.trans (commandBody_of_badOperand operand)) (by decide)
  rcases commandBody_raise (works.symm.trans raised) with bad | bad | bad | bad
  · exact csr bad
  · exact operand bad
  · exact other (works.trans (commandBody_of_indexRange operand bad)) (by decide)
  · exact other (works.trans (commandBody_of_cfgInvalid bad)) (by decide)

theorem code_eq_diverged_iff {i : Instr} {a : Arch} :
    (commandResult i a).code = .diverged ↔ ∃ b, commandResult i a = .diverge b := by
  cases result : commandResult i a with
  | ok b r => simp [CmdResult.code]
  | raise rc =>
    have notTrap : rc ≠ .diverged := fun e => commandResult_ne_raise_diverged i a (e ▸ result)
    simp [CmdResult.code, notTrap]
  | diverge b => simp [CmdResult.code]

/-- The response to a divergence (60 R284). -/
theorem errorWords_diverged (opc : BitVec 8) : errorWords opc .diverged = [0#16 ++ opc ++ 0x09#8] :=
  errorWords_eq opc .diverged

theorem errorWords_faulted (opc : BitVec 8) : errorWords opc .faulted = [0#16 ++ opc ++ 0x04#8] :=
  errorWords_eq opc .faulted

theorem rcValue_injective : Function.Injective rcValue := by
  intro x y
  cases x <;> cases y <;> decide

/-- The response with the code DIVERGED is that of a divergence only. -/
theorem code_of_diverged_response {r : CmdResult} {o : Opcode}
    (h : r.header o :: r.words = errorWords o.byte .diverged) : r.code = .diverged := by
  obtain ⟨header, -⟩ := List.cons.inj h
  have field := congrArg (BitVec.extractLsb' 0 4) header
  rw [CmdResult.header_rc] at field
  exact rcValue_injective (field.trans (CmdResult.header_rc o (.raise .diverged)))

theorem State.frameError_arch (s : State) (ws : List Word) (e : DecodeError) :
    (s.frameError ws e).arch = s.arch := by
  cases e <;> rfl

/-- Settles O17: CONFIG, RUN and FAULT are the three lemmas above. -/
theorem lifecycleMovesByTheTable : Obligations.LifecycleMovesByTheTable := by
  unfold Obligations.LifecycleMovesByTheTable
  refine ⟨fun s t es port h => ?_, fun s t es port h => ?_, fun s t w es e port rejected h => ?_,
    fun i s t h => ?_⟩
  · obtain rfl := Host.Outcome.next.inj ((step_of_rstN port).symm.trans h)
    rfl
  · obtain port | idle := port
    · obtain rfl := Host.Outcome.next.inj ((step_of_rspReady port).symm.trans h)
      rfl
    · obtain rfl := Host.Outcome.next.inj ((step_of_idle idle).symm.trans h)
      rfl
  · obtain rfl := Host.Outcome.next.inj ((step_of_rejected port rejected).symm.trans h)
    exact congrArg Arch.lifecycle (State.frameError_arch _ _ _)
  · obtain rfl := exec_eq_next_iff.mp h
    have ends := commandResult_ends i s.arch
    refine ⟨fun isReset => ?_, fun notReset config => ?_, fun notReset run => ?_,
      fun notReset run still response => ?_, fun notReset fault => ?_⟩
    · subst isReset; rfl
    · by_cases isStart : i = .start
      · subst isStart
        simpa [answered] using commandResult_start_lifecycle config
      · rw [if_neg fun h => isStart h.1]
        exact ends.stays_config notReset isStart config
    · by_cases diverges : (commandResult i s.arch).code = .diverged
      · obtain ⟨b, result⟩ := code_eq_diverged_iff.mp diverges
        obtain ⟨body, -⟩ := commandResult_diverge result
        obtain ⟨samples, -⟩ := commandBody_diverge body
        refine .inr ⟨by rw [result]; rfl, samples, ?_⟩
        rw [result, ← errorWords_diverged]
        rfl
      · exact .inl (ends.stays_run notReset run diverges)
    · rw [← errorWords_diverged] at response
      obtain ⟨b, result⟩ := code_eq_diverged_iff.mp
        (code_of_diverged_response (List.append_cancel_left response))
      rw [result] at still
      cases still
    · exact (congrArg Arch.lifecycle (ends.leaves_of_fault notReset fault)).trans fault

/-! ## The frozen state (60 R285) -/

theorem answered_words_inj {s : State} {a : Arch} {ws ws' : List Word}
    (h : Host.Outcome.next (φ := Fault) (ρ := Refusal) (answered s a ws) = .next (answered s a ws')) :
    ws = ws' :=
  List.append_cancel_left (congrArg State.rspPort (Host.Outcome.next.inj h))

/-- A buffer read does not look at STATE. -/
theorem readSigned_withLifecycle (a : Arch) (l : Lifecycle) (k : Int) :
    readSigned { a with lifecycle := l } k = readSigned a k := by
  funext b; cases b <;> rfl

theorem readUnsigned_withLifecycle (a : Arch) (l : Lifecycle) (j : Nat) :
    readUnsigned { a with lifecycle := l } j = readUnsigned a j := by
  funext b; cases b <;> rfl

theorem bufferRead_words (a b : Arch) (sel : BitVec 4) (read : Machine.Instance → Option (List Word))
    (o : Opcode) : (bufferRead a sel read).header o = (bufferRead b sel read).header o ∧
      (bufferRead a sel read).words = (bufferRead b sel read).words := by
  unfold bufferRead
  split
  · exact ⟨rfl, rfl⟩
  · split <;> exact ⟨rfl, rfl⟩

/-- The work of a command that inspects answers the same whatever STATE is. -/
theorem commandBody_inspect_words {i : Instr} (hi : inspects i = true) (a : Arch) (l : Lifecycle) :
    (commandBody i { a with lifecycle := l }).header i.opcode = (commandBody i a).header i.opcode ∧
      (commandBody i { a with lifecycle := l }).words = (commandBody i a).words := by
  cases i with
  | cbRds sel k => rw [commandBody, readSigned_withLifecycle]; exact bufferRead_words ..
  | cbRdu sel j => rw [commandBody, readUnsigned_withLifecycle]; exact bufferRead_words ..
  | pcSin | pcCos | pcPhasor | ted => exact ⟨rfl, rfl⟩
  | interp mu =>
    rw [commandBody, commandBody]
    split <;> exact ⟨rfl, rfl⟩
  | pktRdw w =>
    rw [commandBody, commandBody, show Arch.pktL { a with lifecycle := l } = a.pktL from rfl]
    split <;> exact ⟨rfl, rfl⟩
  | _ => cases hi

/-- A class R command answers in FAULT what it answers in RUN on the same state. -/
theorem exec_inspect_as_in_run {i : Instr} (hi : inspects i = true) {s : State}
    (fault : s.arch.lifecycle = .fault) :
    let r := { s.arch with lifecycle := Lifecycle.run }
    exec i (s.withArch r) = .next (answered (s.withArch r) r
      ((commandResult i s.arch).header i.opcode :: (commandResult i s.arch).words)) := by
  intro r
  obtain ⟨header, words⟩ := commandBody_inspect_words hi s.arch .run
  have frozen := commandResult_inspect hi (a := s.arch) (by rw [fault]; decide)
  have running := commandResult_inspect hi (a := r) nofun
  rw [exec_of_reads (.inl hi), frozen, ← header, ← words, ← running]
  rfl

/-- Settles O21: the answers are those of the claims about each command, and the state is left by the lemma of
O17. -/
theorem faultFreezesTheState : Obligations.FaultFreezesTheState := by
  unfold Obligations.FaultFreezesTheState
  intro i s fault notReset
  have answer : exec i s = .next (answered s s.arch
      ((commandResult i s.arch).header i.opcode :: (commandResult i s.arch).words)) := by
    rw [exec_eq_finish, finish_eq_answered, (commandResult_ends i s.arch).leaves_of_fault notReset fault]
  have outside : s.arch.lifecycle ≠ .config := by rw [fault]; decide
  have same {ws : List Word} (h : exec i s = .next (answered s s.arch ws)) :
      (commandResult i s.arch).header i.opcode :: (commandResult i s.arch).words = ws :=
    answered_words_inj (answer.symm.trans h)
  refine ⟨_, answer, fun hi => ?_, fun isNop => ?_, fun isStart => ?_, fun n d isWrite named => ?_,
    fun p assigned isRead => ?_, fun hi => exec_inspect_as_in_run hi fault⟩
  · exact same (exec_mutate_of_fault hi fault (errorWords_faulted _))
  · subst isNop
    obtain ⟨-, nop⟩ := nopAnswersAndChangesNothing
    exact same (nop s)
  · subst isStart
    obtain ⟨-, start⟩ := startValidatesAndConstructs
    obtain ⟨-, -, refused⟩ := start s
    exact same (refused outside)
  · subst isWrite
    obtain ⟨-, write⟩ := csrWritesTheConfiguration
    obtain ⟨-, refused, -⟩ := write s d
    exact same (refused outside n named)
  · subst isRead
    obtain ⟨-, read⟩ := csrReadsTheRegisterMap
    obtain ⟨answers, -⟩ := read s
    exact same (answers p assigned)

end Sys2Proof.Machine
end

section
/-! The descrambler (49_descrambler_rx.md): one step of its shift register, and the payload XORed with the stream
of steps from the seed; before it, the block's state along a run of commands. -/

namespace Sys2Proof.Machine

open Sys2Proof.Safety

/-! ## The block's state along a run -/

/-- The block's state after a command. -/
def Arch.after (a : Arch) (i : Instr) : Arch := (commandResult i a).leaves a

/-- No command stops a run, and each finds the state that the one before left. -/
theorem arch_runAll (s : State) (is : List Instr) : (runAll s is).arch = is.foldl Arch.after s.arch := by
  induction is generalizing s with
  | nil => rfl
  | cons i is ih => exact (congrArg State.arch (runAll_cons_of_next (exec_eq_next_iff.mpr rfl) is)).trans (ih _)

/-- Outside RUN a class M command is refused (30 R89). -/
theorem classError_of_not_run {i : Instr} {l : Lifecycle} (hi : mutates i = true) (notRun : l ≠ .run) :
    ∃ rc, classError (cmdClass i.opcode) l = some rc := by
  rw [(cmdClass_opcode_iff i).1.mpr hi]
  cases l with
  | run => exact absurd rfl notRun
  | config | fault => exact ⟨_, rfl⟩

theorem Arch.after_of_not_run {a : Arch} {i : Instr} (hi : mutates i = true) (notRun : a.lifecycle ≠ .run) :
    a.after i = a := by
  obtain ⟨rc, refused⟩ := classError_of_not_run hi notRun
  rw [Arch.after, commandResult_refused (fun n d write => by subst write; cases hi) refused]
  rfl

/-! ## One step (49 R260) -/

/-- A running XOR is the parity of the number of ones. -/
theorem foldl_xor_eq_countP (f : Nat → Bool) (l : List Nat) (p : Bool) :
    l.foldl (fun p i => p ^^ f i) p = (p ^^ decide (l.countP f % 2 = 1)) := by
  induction l generalizing p with
  | nil => simp
  | cons i l ih =>
    rw [List.foldl_cons, ih, List.countP_cons]
    cases f i with
    | false => simp
    | true =>
      rcases Nat.mod_two_eq_zero_or_one (l.countP f) with even | odd
      · have next : (l.countP f + 1) % 2 = 1 := by omega
        simp [even, next]
      · have next : (l.countP f + 1) % 2 = 0 := by omega
        simp [odd, next]

theorem parity_eq (v : Byte) :
    parity v = decide ((List.range 8).countP (fun i => v.getLsbD i) % 2 = 1) := by
  rw [parity, foldl_xor_eq_countP, Bool.false_xor]

/-- A shift to the right with a bit entering at the top. -/
theorem shiftRight_or_top (v : Byte) (b : Bool) :
    (v >>> 1 ||| if b then 0x80#8 else 0x00#8) = (if b then 1#1 else 0#1) ++ v.extractLsb' 1 7 := by
  revert v b; decide

theorem lfsrShift_eq (poly lfsr : Byte) : lfsrShift poly lfsr =
    (if (List.range 8).countP (fun i => (lfsr &&& poly).getLsbD i) % 2 = 1 then 1#1 else 0#1) ++
      lfsr.extractLsb' 1 7 := by
  rw [lfsrShift, parity_eq, shiftRight_or_top]
  simp only [decide_eq_true_eq]

theorem lfsrShift_zero (poly : Byte) : lfsrShift poly 0#8 = 0#8 := by
  rw [lfsrShift, BitVec.zero_and]; decide

theorem okWords_lfsrNext (b : Bool) :
    okWords .lfsrNext { bit := b } = [if b = true then 0x0000A020#32 else 0x0000A000#32] := by
  cases b <;> rfl

/-- Settles O51: in RUN the work is one step or the seed, and the class check refuses both in the other two
states. -/
theorem descramblerStepsAndRestarts : Obligations.DescramblerStepsAndRestarts := by
  unfold Obligations.DescramblerStepsAndRestarts
  refine ⟨rfl, rfl, fun s => ?_⟩
  intro a odd next
  have stepped : lfsrShift a.lfsrPoly a.lfsr = next := lfsrShift_eq a.lfsrPoly a.lfsr
  refine ⟨fun run => ⟨?_, exec_of_ok (commandResult_mutate rfl run) rfl⟩, fun zero => ?_,
    fun config => ⟨exec_mutate_of_config rfl config rfl, exec_mutate_of_config rfl config rfl⟩,
    fun fault => ⟨exec_mutate_of_fault rfl fault rfl, exec_mutate_of_fault rfl fault rfl⟩⟩
  · rw [← stepped]
    exact exec_of_ok (commandResult_mutate rfl run) (okWords_lfsrNext _)
  · rw [← stepped, zero, lfsrShift_zero]

/-! ## A packet (49 R263) -/

theorem lfsrAfter_eq_iterate (poly : Byte) (k : Nat) (l : Byte) :
    lfsrAfter poly k l = (fun l : Byte => lfsrShift poly l)^[k] l := by
  induction k generalizing l with
  | zero => rfl
  | succ k ih => exact ih _

theorem Arch.descramble_lfsr_eq (a : Arch) : a.descramble.lfsr = lfsrAfter a.lfsrPoly a.pktL a.lfsrSeed :=
  descrambleFrom_lfsr ..

/-- Each of the packet's L bits is XORed with the output of its step from the seed. -/
theorem Arch.descramble_bit (a : Arch) {i : Nat} (hi : i < 8192) :
    a.descramble.payload.getLsbD i =
      if i < a.pktL then (a.payload.getLsbD i ^^ lfsrOut (lfsrAfter a.lfsrPoly i a.lfsrSeed))
      else a.payload.getLsbD i := by
  have bit := descrambleFrom_bit a.lfsrPoly a.pktL 0 a.lfsrSeed a.payload i
  simp only [Nat.zero_le, Nat.zero_add, hi, true_and, and_true, Nat.sub_zero] at bit
  exact bit

theorem exec_descramble {s : State} (run : s.arch.lifecycle = .run) :
    exec .descramble s = .next (answered s s.arch.descramble [0x0000A200#32]) :=
  exec_of_ok (commandResult_mutate rfl run) rfl

/-- Settles O52: LFSR and each payload bit after the L steps from the seed. -/
theorem descrambleXorsTheSeedStream : Obligations.DescrambleXorsTheSeedStream := by
  unfold Obligations.DescrambleXorsTheSeedStream
  refine ⟨rfl, fun s => ?_⟩
  intro a at_
  have after (k : Nat) : lfsrAfter a.lfsrPoly k a.lfsrSeed = at_ k := lfsrAfter_eq_iterate ..
  refine ⟨fun run => ⟨a.descramble.payload, ?_, fun i hi => ?_⟩,
    fun config => exec_mutate_of_config rfl config rfl, fun fault => exec_mutate_of_fault rfl fault rfl⟩
  · rw [← after, ← Arch.descramble_lfsr_eq]
    exact exec_descramble run
  · rw [Arch.descramble_bit a hi, after]
    rfl

/-- The stream from the seed is the same both times, and XOR with it is its own inverse. -/
theorem Arch.descramble_descramble_payload (a : Arch) : a.descramble.descramble.payload = a.payload := by
  refine BitVec.eq_of_getLsbD_eq fun i hi => ?_
  rw [Arch.descramble_bit _ hi, Arch.descramble_bit _ hi]
  simp only [Arch.descramble_pktL, Arch.descramble_lfsrPoly, Arch.descramble_lfsrSeed]
  split
  · rw [Bool.xor_assoc, Bool.xor_self, Bool.xor_false]
  · rfl

theorem Arch.after_descramble {a : Arch} (run : a.lifecycle = .run) : a.after .descramble = a.descramble := by
  rw [Arch.after, commandResult_mutate rfl run]; rfl

/-- Settles O53: outside RUN both commands are refused. -/
theorem descrambleTwiceRestores : Obligations.DescrambleTwiceRestores := by
  unfold Obligations.DescrambleTwiceRestores
  intro s
  rw [arch_runAll, List.foldl_cons, List.foldl_cons, List.foldl_nil]
  by_cases run : s.arch.lifecycle = .run
  · have stillRun : s.arch.descramble.lifecycle = .run := run
    rw [Arch.after_descramble run, Arch.after_descramble stillRun, Arch.descramble_descramble_payload]
  · rw [Arch.after_of_not_run rfl run, Arch.after_of_not_run rfl run]

end Sys2Proof.Machine
end

section
/-! The syncword correlator (48_syncword.md): the counts after one symbol and after a sequence of symbols, their
bound, and the reset that forgets them. -/

namespace Sys2Proof.Machine

open Sys2Proof.Safety

/-! ## The bit form (30 R86) -/

@[simp] theorem bitOperand_bitImm (b : Bool) : bitOperand (bitImm b) = b := by cases b <;> rfl

/-- A header of a bit-form command whose IMM[15:1] is not 0 is rejected (30 R91). -/
theorem decode_of_bit_upper {o : Opcode} {imm low : BitVec 16} (form : o.immForm = .bit)
    (fields : 0#2 ++ (0#2 ++ (0#4 ++ o.byte)) = low) (upper : imm.extractLsb' 1 15 ≠ 0#15) :
    decode [imm ++ low] = .error .reservedField := by
  rw [← mkHeader_eq_append imm fields]
  refine decode_reserved (o := o) ?_ ?_ (fieldsOk_eq_false ?_)
  · rw [hdrLen_mkHeader]; exact Nat.zero_le _
  · rw [hdrOpc_mkHeader, opcodeOf_byte]
  · rw [hdrImm_mkHeader]
    exact .inr (.inr (.inr (.inr ⟨form, upper⟩)))

/-! ## The slots of EH -/

section
variable {α : Type} [Inhabited α] {b c : CBuf α}

/-- Arrays of one length that agree on their slot values agree, outside the array too. -/
theorem CBuf.getElem?_eq_of_slotVal_eq {j : Nat} (size : b.data.length = c.data.length)
    (value : b.slotVal j = c.slotVal j) : b.data[j]? = c.data[j]? := by
  by_cases inside : j < b.data.length
  · rw [← CBuf.some_slotVal inside, value, CBuf.some_slotVal (size ▸ inside)]
  · rw [List.getElem?_eq_none (by omega), List.getElem?_eq_none (by omega)]

end

/-- The oldest count, which `locked` compares with THRESHOLD, is that of the offset -(N - 1). -/
theorem CBuf.getU_zero_eq {α : Type} [Inhabited α] {n : Nat} {b : CBuf α} (hn : 0 < n) :
    b.getU n 0 = b.getS n (-((n - 1 : Nat) : Int)) := by
  rw [CBuf.getS_neg (by omega), Nat.sub_self]

/-! ## One symbol (48 R241, R243) -/

/-- What the invariant says of the ring of EH outside CONFIG. -/
theorem corrRing {a : Arch} (inv : ArchInv a) (outside : a.lifecycle ≠ .config) :
    a.eh.cur < a.syncN ∧ a.syncN ≤ a.eh.data.length ∧ a.syncN ≤ 64 := by
  obtain ⟨-, size⟩ := ehRing_bounds inv outside
  obtain ⟨⟨-, -, -, -, slots⟩, -, -, -, -, correlator, -⟩ := inv
  exact ⟨(correlator outside).1, size, size.trans slots.le⟩

/-- The count of the hypothesis `i` symbols old after a symbol. -/
theorem Arch.corrStep_getS {a : Arch} (inv : ArchInv a) (outside : a.lifecycle ≠ .config) (s : Bool) {i : Nat}
    (hi : i < a.syncN) :
    (a.corrStep s).1.eh.getS a.syncN (-(i : Int)) =
      (if i = 0 then 0#32 else a.eh.getS a.syncN (-((i - 1 : Nat) : Int))) +
      (if a.syncPat.getLsbD i = s then 0#32 else 1#32) := by
  obtain ⟨cur, size, -⟩ := corrRing inv outside
  rw [Arch.corrStep_eh, corrPush_getS cur size a.pattern s hi, Arch.pattern, ite_not]
  rfl

/-- The lock result, by the count of the oldest hypothesis. -/
theorem Arch.corrStep_lock {a : Arch} (hn : 0 < a.syncN) (s : Bool) :
    (a.corrStep s).2 = true ↔
      ((a.corrStep s).1.eh.getS a.syncN (-((a.syncN - 1 : Nat) : Int))).toNat ≤ a.threshold.toNat := by
  have lock : (a.corrStep s).2 = (a.corrStep s).1.locked := rfl
  rw [lock, Arch.locked, decide_eq_true_eq, Arch.corrStep_syncN, Arch.corrStep_threshold, CBuf.getU_zero_eq hn]

theorem Arch.corrStep_eq (a : Arch) (s : Bool) :
    (a.corrStep s).1 = { a with eh := (a.corrStep s).1.eh } := rfl

theorem okWords_corrTick (b : Bool) :
    okWords .corrTick { bit := b } = [if b = true then 0x00008020#32 else 0x00008000#32] := by
  cases b <;> rfl

theorem exec_corrTick {s : State} (run : s.arch.lifecycle = .run) (b : Bool) :
    exec (.corrTick (bitImm b)) s = .next (answered s (s.arch.corrStep b).1
      [if (s.arch.corrStep b).2 = true then 0x00008020#32 else 0x00008000#32]) := by
  have works : commandBody (.corrTick (bitImm b)) s.arch =
      .ok (s.arch.corrStep b).1 { bit := (s.arch.corrStep b).2 } := by rw [commandBody, bitOperand_bitImm]
  exact exec_of_ok ((commandResult_mutate rfl run).trans works) (okWords_corrTick _)

/-- Settles O45: the counts are those of `corrStep_getS`, and the slots above N keep their values. -/
theorem corrTickCountsMismatches : Obligations.CorrTickCountsMismatches := by
  unfold Obligations.CorrTickCountsMismatches
  refine ⟨rfl, rfl, fun imm upper => decode_of_bit_upper (o := .corrTick) rfl rfl upper, fun s b => ?_⟩
  intro a n
  have badState : errorWords Opcode.corrTick.byte .badState = [0x00008003#32] := rfl
  have faulted : errorWords Opcode.corrTick.byte .faulted = [0x00008004#32] := rfl
  refine ⟨fun run inv => ?_, fun config => exec_mutate_of_config rfl config badState,
    fun fault => exec_mutate_of_fault rfl fault faulted⟩
  have outside : a.lifecycle ≠ .config := by rw [run]; decide
  obtain ⟨cur, size, -⟩ := corrRing inv outside
  refine ⟨(a.corrStep b).1.eh, ?_, corrPush_cur .., corrPush_length .., fun i hi => ?_, fun j hj => ?_⟩
  · have answer := exec_corrTick run b
    rw [if_congr (Arch.corrStep_lock (Nat.zero_lt_of_lt cur) b) rfl rfl] at answer
    exact answer
  · exact Arch.corrStep_getS inv outside b hi
  · exact CBuf.getElem?_eq_of_slotVal_eq (corrPush_length ..) (corrPush_slotVal_ge cur size a.pattern b hj)

/-! ## Forgetting (48 R242, R244) -/

/-- The reset writes NOLOCK to the first N slots and leaves the rest. -/
theorem Arch.corrReset_eh {a : Arch} (size : a.syncN ≤ a.eh.data.length) :
    a.corrReset.1.eh = ⟨List.replicate a.syncN a.nolock ++ a.eh.data.drop a.syncN, a.eh.cur⟩ := by
  refine congrArg (CBuf.mk · a.eh.cur) (List.ext_getElem ?_ fun i inside _ => ?_)
  · simp [Nat.add_sub_cancel' size]
  · rw [List.getElem_mapIdx, List.getElem_append]
    simp only [List.length_replicate, List.getElem_replicate, List.getElem_drop]
    split
    · rfl
    · next above => congr 1; omega

theorem Arch.corrReset_eq {a : Arch} (size : a.syncN ≤ a.eh.data.length) :
    a.corrReset.1 = { a with
      eh := ⟨List.replicate a.syncN a.nolock ++ a.eh.data.drop a.syncN, a.eh.cur⟩ } := by
  rw [← Arch.corrReset_eh size]; rfl

/-- After the reset every hypothesis has the count NOLOCK. -/
theorem Arch.corrReset_getS {a : Arch} (hn : 0 < a.syncN) (size : a.syncN ≤ a.eh.data.length) (k : Int) :
    a.corrReset.1.eh.getS a.syncN k = a.nolock := by
  have slot := CBuf.slot_lt (b := a.corrReset.1.eh) hn k
  rw [CBuf.getS, Arch.corrReset_slotVal a (by omega), if_pos slot]

/-- START constructs every hypothesis with NOLOCK (10 R55). -/
theorem construct_getS {a : Arch} (legal : startLegal a = true) (k : Int) :
    a.deriveConstants.construct.eh.getS a.syncN k = a.deriveConstants.nolock := by
  obtain ⟨positive, fits, -⟩ := startLegal_bounds legal
  have slot := CBuf.slot_lt (b := a.deriveConstants.construct.eh) positive k
  have data : a.deriveConstants.construct.eh.data =
      List.replicate a.syncN a.deriveConstants.nolock ++ List.replicate (64 - a.syncN) 0#32 :=
    constructedEh_eq_replicate fits _
  rw [CBuf.getS, CBuf.slotVal, data, List.getD_append _ _ _ _ (by simpa using slot), List.getD_replicate _ slot]

/-- Outside CONFIG, NOLOCK is THRESHOLD + 1, which does not wrap (10 R34). -/
theorem nolock_toNat {a : Arch} (inv : ArchInv a) (outside : a.lifecycle ≠ .config) :
    a.nolock.toNat = a.threshold.toNat + 1 := by
  obtain ⟨-, -, legal, derived, -⟩ := inv
  obtain ⟨-, -, bound, -⟩ := startLegal_bounds (legal outside)
  have value : a.threshold + 1#32 = a.nolock := congrArg Arch.nolock (derived outside)
  rw [← value, BitVec.toNat_add, BitVec.toNat_ofNat]
  omega

/-- No hypothesis is within THRESHOLD after the reset (48 R247). -/
theorem Arch.corrReset_lock {a : Arch} (inv : ArchInv a) (outside : a.lifecycle ≠ .config) :
    a.corrReset.2 = false := by
  obtain ⟨positive, size⟩ := ehRing_bounds inv outside
  have lock : a.corrReset.2 = a.corrReset.1.locked := rfl
  have nolock := nolock_toNat inv outside
  rw [lock, Arch.locked, Arch.corrReset_syncN, CBuf.getU_zero_eq positive, Arch.corrReset_getS positive size,
    Arch.corrReset_threshold, decide_eq_false_iff_not]
  omega

/-- Settles O46: the N slots in use are the first N, and NOLOCK is above THRESHOLD. -/
theorem corrResetForgetsEveryHypothesis : Obligations.CorrResetForgetsEveryHypothesis := by
  unfold Obligations.CorrResetForgetsEveryHypothesis
  refine ⟨rfl, fun s => ?_⟩
  intro a
  refine ⟨fun run inv => ?_, fun config => exec_mutate_of_config rfl config rfl,
    fun fault => exec_mutate_of_fault rfl fault rfl⟩
  have outside : a.lifecycle ≠ .config := by rw [run]; decide
  rw [← Arch.corrReset_eq (ehRing_bounds inv outside).2]
  refine exec_of_ok (commandResult_mutate rfl run) ?_
  show okWords .corrReset { bit := a.corrReset.2 } = _
  rw [Arch.corrReset_lock inv outside]
  rfl

end Sys2Proof.Machine
end

section
/-! The bound of the correlator's counts (48 R241): every step keeps it, as it keeps the invariant. -/

namespace Sys2Proof.Safety

open Sys2Proof.Machine

section
variable {a b : Arch}

theorem CountsBounded.of_frame (h : CountsBounded a) (outside : a.lifecycle ≠ .config)
    (syncN : b.syncN = a.syncN) (nolock : b.nolock = a.nolock) (eh : b.eh = a.eh) : CountsBounded b := by
  intro _
  rw [syncN, nolock, eh]
  exact h outside

/-- A symbol makes every hypothesis one symbol older and adds at most 1 to its count. -/
theorem CountsBounded.corrStep (h : CountsBounded a) (inv : ArchInv a) (outside : a.lifecycle ≠ .config)
    (s : Bool) : CountsBounded (a.corrStep s).1 := by
  intro _ i hi
  rw [Arch.corrStep_syncN] at hi ⊢
  rw [Arch.corrStep_getS inv outside s hi, Arch.corrStep_nolock]
  have before : (if i = 0 then 0#32 else a.eh.getS a.syncN (-((i - 1 : Nat) : Int))).toNat ≤
      a.nolock.toNat + i := by
    split
    · exact Nat.zero_le _
    · have := h outside (i - 1) (by omega)
      omega
  have added : (if a.syncPat.getLsbD i = s then 0#32 else 1#32).toNat ≤ 1 := by split <;> decide
  rw [BitVec.toNat_add]
  exact (Nat.mod_le _ _).trans (Nat.add_le_add before added)

theorem CountsBounded.corrReset (inv : ArchInv a) (outside : a.lifecycle ≠ .config) :
    CountsBounded a.corrReset.1 := by
  obtain ⟨positive, size⟩ := ehRing_bounds inv outside
  intro _ i _
  rw [Arch.corrReset_syncN, Arch.corrReset_getS positive size, Arch.corrReset_nolock]
  omega

theorem CountsBounded.pktStep (h : CountsBounded a) (inv : ArchInv a) (outside : a.lifecycle ≠ .config)
    (s : Bool) : CountsBounded (a.pktStep s).1 := by
  rcases Arch.pktStep_cases a s with ⟨-, -, e⟩ | ⟨-, -, e⟩ | ⟨-, -, e⟩ | ⟨-, -, e⟩
  · rw [e]
    exact h.corrStep inv outside s
  · rw [e]
    exact (CountsBounded.corrReset (inv.corrStep outside s) outside).of_frame outside rfl rfl rfl
  · rw [e]
    exact h.of_frame outside rfl rfl rfl
  · rw [e]
    exact h.of_frame outside rfl rfl rfl

theorem CountsBounded.chainStep (h : CountsBounded a) (inv : ArchInv a) (outside : a.lifecycle ≠ .config)
    (sample : BitVec 64) (bit : Bool) : CountsBounded (a.chainStep sample bit).1 := by
  have counts := h.pktStep inv outside bit
  have outside' : (a.pktStep bit).1.lifecycle ≠ .config := by simpa using outside
  rcases Arch.chainStep_cases a sample bit with ⟨-, e⟩ | ⟨-, e⟩
  · rw [e]
    exact counts
  · rw [e]
    exact counts.of_frame outside' rfl rfl rfl

/-- START constructs every hypothesis with NOLOCK. -/
theorem CountsBounded.construct (legal : startLegal a = true) : CountsBounded a.deriveConstants.construct := by
  intro _ i _
  have nolock : a.deriveConstants.construct.nolock = a.deriveConstants.nolock := rfl
  rw [nolock, show a.deriveConstants.construct.syncN = a.syncN from rfl, construct_getS legal]
  omega

/-- Only the correlator and the packetizer touch the counts. -/
theorem CountsBounded.unitWork {i : Instr} {pkt : Bool} (h : CountsBounded a) (inv : ArchInv a)
    (run : a.lifecycle = .run) (w : UnitWork a i b pkt) : CountsBounded b := by
  have outside : a.lifecycle ≠ .config := by rw [run]; decide
  cases w with
  | corrTick imm => exact h.corrStep inv outside _
  | corrReset => exact .corrReset inv outside
  | pktTick imm => exact h.pktStep inv outside _
  | rxChain re im bit =>
    have synced := (inv.countSample outside).ssStep outside (sampleOperand re im)
    have counts : CountsBounded (a.countSample.ssStep (sampleOperand re im)).1 :=
      h.of_frame outside (by simp [Arch.syncN]) (by simp) (by simp)
    exact counts.chainStep synced (by simpa using outside) _ _
  | _ => exact h.of_frame outside (by simp [Arch.syncN, Arch.tick_eq]) (by simp [Arch.tick_eq]) (by simp [Arch.tick_eq])

theorem CountsBounded.leaves {i : Instr} {r : CmdResult} (h : CountsBounded a) (inv : ArchInv a)
    (ends : CommandEnds i a r) : CountsBounded (r.leaves a) := by
  cases ends with
  | refused | read => exact h
  | reset => exact (absurd rfl ·)
  | started _ _ legal => exact .construct legal
  | stored n c d _ config =>
    refine (absurd ?_ ·)
    rw [CmdResult.leaves, csrStore_frame]
    exact config
  | worked b r run work => exact h.unitWork inv run work
  | diverged b run work =>
    have outside : b.lifecycle ≠ .config := by rw [work.lifecycle_eq, run]; decide
    exact (h.unitWork inv run work).of_frame outside rfl rfl rfl

end

/-- Settles O16, for each thing a step can do. -/
theorem stepKeepsCountsBounded : Obligations.StepKeepsCountsBounded := by
  unfold Obligations.StepKeepsCountsBounded
  intro s t inv bounded h
  obtain ⟨inv, -⟩ := inv
  rcases step_cases s with
    ⟨-, e⟩ | ⟨es, -, e⟩ | ⟨es, -, e⟩ | ⟨w, es, i, rest, -, -, e⟩ | ⟨w, es, err, -, -, e⟩
  · obtain rfl := Host.Outcome.next.inj (e.symm.trans h)
    exact bounded
  · obtain rfl := Host.Outcome.next.inj (e.symm.trans h)
    exact (absurd rfl ·)
  · obtain rfl := Host.Outcome.next.inj (e.symm.trans h)
    exact bounded
  · rw [finish_eq_answered] at e
    obtain rfl := Host.Outcome.next.inj (e.symm.trans h)
    exact bounded.leaves inv (commandResult_ends i s.arch)
  · obtain rfl := Host.Outcome.next.inj (e.symm.trans h)
    rw [State.frameError_arch]
    exact bounded

end Sys2Proof.Safety
end

section
/-! A sequence of symbols at the correlator (48 R240): the oldest count is the Hamming distance between the pattern
and the last N symbols. -/

namespace Sys2Proof.Machine

open Sys2Proof.Safety

/-! ## A sequence of symbols -/

/-- How many of the first `m` pattern bits differ from the last `m` of the symbols fed. -/
def mismatches (pat : Nat → Bool) (fed : List Bool) (m : Nat) : Nat :=
  (List.range m).countP fun k => pat k != (fed.drop (fed.length - m)).getD k false

theorem hammingDistance_eq (a : Arch) (fed : List Bool) :
    hammingDistance a fed = mismatches a.pattern fed a.syncN := rfl

theorem mismatches_le (pat : Nat → Bool) (fed : List Bool) (m : Nat) : mismatches pat fed m ≤ m :=
  List.countP_le_length.trans_eq List.length_range

/-- One symbol more: the window of `m` symbols becomes one of `m + 1`, and the new symbol meets bit `m`. -/
theorem mismatches_concat {pat : Nat → Bool} {fed : List Bool} {m : Nat} (hm : m ≤ fed.length) (s : Bool) :
    mismatches pat (fed ++ [s]) (m + 1) = mismatches pat fed m + if pat m = s then 0 else 1 := by
  have window : (fed ++ [s]).drop ((fed ++ [s]).length - (m + 1)) = fed.drop (fed.length - m) ++ [s] := by
    rw [List.length_append, List.length_singleton, Nat.add_sub_add_right,
      List.drop_append_of_le_length (Nat.sub_le _ _)]
  have size : (fed.drop (fed.length - m)).length = m := by rw [List.length_drop]; omega
  rw [mismatches, window, List.range_succ, List.countP_append, List.countP_singleton]
  congr 1
  · refine List.countP_congr fun k hk => ?_
    rw [List.getD_append _ _ _ _ (size.symm ▸ List.mem_range.mp hk)]
  · rw [List.getD_append_right _ _ _ _ size.le, size, Nat.sub_self]
    by_cases same : pat m = s <;> simp [same]

/-- The block after a sequence of symbols at its correlator. -/
def Arch.corrFed (a : Arch) (fed : List Bool) : Arch := fed.foldl (fun a s => (a.corrStep s).1) a

theorem Arch.corrFed_concat (a : Arch) (fed : List Bool) (s : Bool) :
    a.corrFed (fed ++ [s]) = ((a.corrFed fed).corrStep s).1 := List.foldl_concat ..

/-- The correlator writes EH only. -/
theorem Arch.corrFed_eq (a : Arch) (fed : List Bool) : a.corrFed fed = { a with eh := (a.corrFed fed).eh } := by
  induction fed using List.reverseRecOn with
  | nil => rfl
  | append_singleton fed s ih => rw [Arch.corrFed_concat, Arch.corrStep_eq, ih]

theorem archInv_corrFed {a : Arch} (inv : ArchInv a) (outside : a.lifecycle ≠ .config) (fed : List Bool) :
    ArchInv (a.corrFed fed) := by
  induction fed using List.reverseRecOn with
  | nil => exact inv
  | append_singleton fed s ih =>
    rw [Arch.corrFed_concat]
    exact ih.corrStep (by rw [Arch.corrFed_eq]; exact outside) s

/-- A hypothesis that began after the first symbol fed has counted the mismatches of the window that ends with the
last one, whatever was there before. -/
theorem Arch.corrFed_getS {a : Arch} (inv : ArchInv a) (outside : a.lifecycle ≠ .config) {fed : List Bool} {i : Nat}
    (hi : i < a.syncN) (seen : i < fed.length) :
    (a.corrFed fed).eh.getS a.syncN (-(i : Int)) = BitVec.ofNat 32 (mismatches a.pattern fed (i + 1)) := by
  induction fed using List.reverseRecOn generalizing i with
  | nil => simp at seen
  | append_singleton fed s ih =>
    have frame := a.corrFed_eq fed
    have syncN : (a.corrFed fed).syncN = a.syncN := by rw [frame]; rfl
    have pattern : (a.corrFed fed).syncPat = a.syncPat := by rw [frame]; rfl
    have outside' : (a.corrFed fed).lifecycle ≠ .config := by rw [frame]; exact outside
    have count := Arch.corrStep_getS (archInv_corrFed inv outside fed) outside' s (i := i) (syncN ▸ hi)
    rw [syncN, pattern] at count
    rw [List.length_append, List.length_singleton] at seen
    rw [Arch.corrFed_concat, count, mismatches_concat (by omega), BitVec.ofNat_add]
    congr 1
    · cases i with
      | zero => rfl
      | succ i => exact ih (by omega) (by omega)
    · exact (apply_ite (BitVec.ofNat 32) _ _ _).symm

/-- The oldest hypothesis has seen exactly the last N symbols. -/
theorem Arch.corrFed_oldest {a : Arch} (inv : ArchInv a) (outside : a.lifecycle ≠ .config) {fed : List Bool}
    (enough : a.syncN ≤ fed.length) : ((a.corrFed fed).eh.getU a.syncN 0).toNat = hammingDistance a fed := by
  obtain ⟨cur, -, fits⟩ := corrRing inv outside
  have positive := Nat.zero_lt_of_lt cur
  have bound := mismatches_le a.pattern fed a.syncN
  rw [CBuf.getU_zero_eq positive, Arch.corrFed_getS inv outside (by omega) (by omega),
    Nat.sub_add_cancel positive, BitVec.toNat_ofNat, hammingDistance_eq, Nat.mod_eq_of_lt (by omega)]

theorem Arch.corrFed_locked {a : Arch} (inv : ArchInv a) (outside : a.lifecycle ≠ .config) {fed : List Bool}
    (enough : a.syncN ≤ fed.length) :
    (a.corrFed fed).locked = true ↔ hammingDistance a fed ≤ a.threshold.toNat := by
  have syncN : (a.corrFed fed).syncN = a.syncN := by rw [a.corrFed_eq]; rfl
  have threshold : (a.corrFed fed).threshold = a.threshold := by rw [a.corrFed_eq]
  rw [Arch.locked, decide_eq_true_eq, syncN, threshold, Arch.corrFed_oldest inv outside enough]

/-! ## A run of CORR_TICKs (48 R240, R241) -/

theorem runAll_append (s : State) (is js : List Instr) : runAll s (is ++ js) = runAll (runAll s is) js := by
  induction is generalizing s with
  | nil => rfl
  | cons i is ih =>
    obtain ⟨t, h⟩ := exec_next i s
    rw [List.cons_append, runAll_cons_of_next h, runAll_cons_of_next h, ih]

theorem runAll_concat_of_next {s t : State} {is : List Instr} {i : Instr} (h : exec i (runAll s is) = .next t) :
    runAll s (is ++ [i]) = t := by
  rw [runAll_append, runAll_cons_of_next h]; rfl

theorem arch_runAll_corrTick {s : State} (run : s.arch.lifecycle = .run) (fed : List Bool) :
    (runAll s (fed.map fun b => .corrTick (bitImm b))).arch = s.arch.corrFed fed := by
  induction fed using List.reverseRecOn with
  | nil => rfl
  | append_singleton fed b ih =>
    have run' : (runAll s (fed.map fun b => .corrTick (bitImm b))).arch.lifecycle = .run := by
      rw [ih, Arch.corrFed_eq]; exact run
    rw [List.map_append, List.map_singleton, runAll_concat_of_next (exec_corrTick run' b),
      Arch.corrFed_concat, ← ih]
    rfl

/-- The response to the last of a run of CORR_TICKs is the lock result of the state it leaves. -/
theorem getLast?_rspPort_corrTick {s : State} (run : s.arch.lifecycle = .run) (fed : List Bool) (b : Bool) :
    (runAll s ((fed ++ [b]).map fun b => .corrTick (bitImm b))).rspPort.getLast? = some
      (if (s.arch.corrFed (fed ++ [b])).locked = true then 0x00008020#32 else 0x00008000#32) := by
  have before := arch_runAll_corrTick run fed
  have run' : (runAll s (fed.map fun b => .corrTick (bitImm b))).arch.lifecycle = .run := by
    rw [before, Arch.corrFed_eq]; exact run
  rw [List.map_append, List.map_singleton, runAll_concat_of_next (exec_corrTick run' b),
    Arch.corrFed_concat, ← before]
  exact List.getLast?_concat

/-- Settles O47: there is a last symbol, since N is not 0. -/
theorem correlatorCountsTheHammingDistance : Obligations.CorrelatorCountsTheHammingDistance := by
  unfold Obligations.CorrelatorCountsTheHammingDistance
  intro s symbols run inv enough t
  have outside : s.arch.lifecycle ≠ .config := by rw [run]; decide
  obtain ⟨positive, -⟩ := ehRing_bounds inv outside
  have frame := s.arch.corrFed_eq symbols
  have syncN : (s.arch.corrFed symbols).syncN = s.arch.syncN := by rw [frame]; rfl
  have left : t.arch = s.arch.corrFed symbols := arch_runAll_corrTick run symbols
  constructor
  · obtain ⟨cur, size, -⟩ := corrRing (archInv_corrFed inv outside symbols) (by rw [frame]; exact outside)
    rw [left]
    exact ⟨_, CBuf.getElem?_oldest size cur, syncN ▸ Arch.corrFed_oldest inv outside enough⟩
  · have lock := Arch.corrFed_locked inv outside enough
    obtain rfl | ⟨fed, b, rfl⟩ := List.eq_nil_or_concat' symbols
    · exact absurd enough (Nat.not_le.mpr positive)
    · rw [← if_congr lock rfl rfl]
      exact getLast?_rspPort_corrTick run fed b

end Sys2Proof.Machine
end

section
/-! The packetizer (48_syncword.md): one symbol, scanned or captured, and the words of the payload. -/

namespace Sys2Proof.Machine

open Sys2Proof.Safety

/-! ## One symbol (48 R245, R246) -/

theorem okWords_pktTick (pkt : Bool) :
    okWords .pktTick { pkt := pkt } = [if pkt = true then 0x00009040#32 else 0x00009000#32] := by
  cases pkt <;> rfl

theorem exec_pktTick {s : State} (run : s.arch.lifecycle = .run) (b : Bool) :
    exec (.pktTick (bitImm b)) s = .next (answered s (s.arch.pktStep b).1
      [if (s.arch.pktStep b).2 = true then 0x00009040#32 else 0x00009000#32]) := by
  have works : commandBody (.pktTick (bitImm b)) s.arch =
      .ok (s.arch.pktStep b).1 { pkt := (s.arch.pktStep b).2 } := by rw [commandBody, bitOperand_bitImm]
  exact exec_of_ok ((commandResult_mutate rfl run).trans works) (okWords_pktTick _)

theorem exec_pktTick_of_step {s : State} {b pkt : Bool} {a : Arch} (run : s.arch.lifecycle = .run)
    (step : s.arch.pktStep b = (a, pkt)) :
    exec (.pktTick (bitImm b)) s = .next (answered s a [if pkt = true then 0x00009040#32 else 0x00009000#32]) := by
  rw [exec_pktTick run, step]

section
variable {a : Arch}

/-- In Scanning the symbol goes to the correlator, and a lock begins a capture. -/
theorem Arch.pktStep_of_scanning (scanning : a.pstate = .scanning) (s : Bool) :
    a.pktStep s = (if (a.corrStep s).2 = true then
      { (a.corrStep s).1.corrReset.1 with pstate := .capturing, capidx := 0, pktAvail := false }
      else (a.corrStep s).1, false) := by
  rcases Arch.pktStep_cases a s with ⟨-, free, e⟩ | ⟨-, lock, e⟩ | ⟨capturing, -⟩ | ⟨capturing, -⟩
  · rw [e, free]; rfl
  · rw [e, lock]; rfl
  · cases scanning.symm.trans capturing
  · cases scanning.symm.trans capturing

theorem Arch.pktStep_of_more (capturing : a.pstate = .capturing) (more : a.capidx + 1 ≠ a.pktL) (s : Bool) :
    a.pktStep s = ({ a with payload := setBit a.payload a.capidx s, capidx := a.capidx + 1 }, false) := by
  rcases Arch.pktStep_cases a s with ⟨scanning, -⟩ | ⟨scanning, -⟩ | ⟨-, -, e⟩ | ⟨-, last, -⟩
  · cases capturing.symm.trans scanning
  · cases capturing.symm.trans scanning
  · exact e
  · exact absurd last more

theorem Arch.pktStep_of_last (capturing : a.pstate = .capturing) (last : a.capidx + 1 = a.pktL) (s : Bool) :
    a.pktStep s = ({ a with
      payload := setBit a.payload a.capidx s, capidx := 0, pstate := .scanning, pktAvail := true
      packetCount := a.packetCount + 1 }, true) := by
  rcases Arch.pktStep_cases a s with ⟨scanning, -⟩ | ⟨scanning, -⟩ | ⟨-, more, -⟩ | ⟨-, -, e⟩
  · cases capturing.symm.trans scanning
  · cases capturing.symm.trans scanning
  · exact absurd last more
  · exact e

end

/-- Settles O48: the three cases of a packetizer step; the invariant keeps CAPIDX inside the payload. -/
theorem pktTickScansAndCaptures : Obligations.PktTickScansAndCaptures := by
  unfold Obligations.PktTickScansAndCaptures
  refine ⟨rfl, rfl, fun imm upper => decode_of_bit_upper (o := .pktTick) rfl rfl upper, fun s b => ?_⟩
  intro a
  have badState : errorWords Opcode.pktTick.byte .badState = [0x00009003#32] := rfl
  have faulted : errorWords Opcode.pktTick.byte .faulted = [0x00009004#32] := rfl
  refine ⟨fun run inv scanning => ?_, fun run inv capturing => ?_,
    fun config => exec_mutate_of_config rfl config badState,
    fun fault => exec_mutate_of_fault rfl fault faulted⟩
  · have outside : a.lifecycle ≠ .config := by rw [run]; decide
    have size : (a.corrStep b).1.syncN ≤ (a.corrStep b).1.eh.data.length :=
      (ehRing_bounds (inv.corrStep outside b) outside).2
    refine ⟨(a.corrStep b).1.eh, (a.corrStep b).2, exec_corrTick run b, ?_⟩
    have answer := exec_pktTick run b
    rw [Arch.pktStep_of_scanning scanning, Arch.corrReset_eq size] at answer
    exact answer
  · obtain ⟨-, -, legal, -, -, -, -, -, packet⟩ := inv
    have outside : a.lifecycle ≠ .config := by rw [run]; decide
    obtain ⟨-, -, -, -, fits⟩ := startLegal_bounds (legal outside)
    obtain ⟨inPacket, -⟩ := packet outside
    refine ⟨setBit a.payload a.capidx b, fun j => ?_, fun more => ?_, fun last => ?_⟩
    · rw [getLsbD_setBit]
      simp only [eq_comm (a := j), and_iff_left (show a.capidx < 8192 by omega)]
    · exact exec_pktTick_of_step run (Arch.pktStep_of_more capturing more.ne b)
    · exact exec_pktTick_of_step run (Arch.pktStep_of_last capturing last b)

/-! ## The payload by words (48 R248) -/

/-- A word built by setting the bits of a list that meet `p`. -/
theorem getLsbD_foldl_setBits (p : Nat → Bool) (l : List Nat) (v : Word) {j : Nat} (hj : j < 32) :
    (l.foldl (fun v b => if p b then v ||| 1#32 <<< b else v) v).getLsbD j =
      (v.getLsbD j || decide (j ∈ l) && p j) := by
  induction l generalizing v with
  | nil => simp
  | cons b l ih =>
    have bit : (1#32 <<< b).getLsbD j = decide (j = b) := by
      rw [BitVec.getLsbD_shiftLeft, BitVec.getLsbD_one]
      simp only [hj, decide_true, Bool.true_and, show 0 < 32 by decide]
      rw [← decide_not, ← Bool.decide_and]
      exact decide_eq_decide.mpr (by omega)
    rw [List.foldl_cons, ih]
    by_cases here : j = b
    · subst here
      cases hp : p j <;> simp [bit]
    · cases hp : p b <;> simp [bit, here]

theorem getLsbD_payloadWord (payload : BitVec 8192) (l w : Nat) {b : Nat} (hb : b < 32) :
    (payloadWord payload l w).getLsbD b = (decide (32 * w + b < l) && payload.getLsbD (32 * w + b)) := by
  have bits := getLsbD_foldl_setBits
    (fun b => decide (32 * w + b < l) && payload.getLsbD (32 * w + b)) (List.range 32) 0#32 hb
  rw [payloadWord, bits, BitVec.getLsbD_zero, Bool.false_or, decide_eq_true (List.mem_range.mpr hb), Bool.true_and]

theorem okWords_pktRdw (v : Word) : okWords .pktRdw { data := [v] } = [0x00019100#32, v] :=
  congrArg (· :: [v]) (show mkRspHeader 1#2 0x91#8 false false false 0#4 = 0x00019100#32 from rfl)

/-- Settles O50: the answer is `payloadWord`, read bit by bit. -/
theorem pktRdwReadsThePayload : Obligations.PktRdwReadsThePayload := by
  unfold Obligations.PktRdwReadsThePayload
  refine ⟨fun w => congrArg (· :: []) (mkHeader_eq_append (len := 0#2) (sel := 0#4) (opc := 0x91#8) w rfl),
    fun s w => ?_⟩
  intro a
  refine ⟨fun outside inside => ?_, fun outside above => ?_, fun config => ?_⟩
  · have works : commandBody (.pktRdw w) a = .ok a { data := [payloadWord a.payload a.pktL w.toNat] } :=
      if_neg (Nat.not_le.mpr inside)
    exact ⟨_, exec_of_ok ((commandResult_inspect rfl outside).trans works) (okWords_pktRdw _),
      fun b hb => getLsbD_payloadWord _ _ _ hb⟩
  · have refused : commandBody (.pktRdw w) a = .raise .indexRange := if_pos above
    have words : errorWords Opcode.pktRdw.byte .indexRange = [0x00009105#32] := rfl
    exact exec_of_raise ((commandResult_inspect rfl outside).trans refused) words
  · have words : errorWords Opcode.pktRdw.byte .badState = [0x00009103#32] := rfl
    exact exec_of_raise (commandResult_inspect_of_config rfl config) words

end Sys2Proof.Machine
end

section
/-! The packetizer end to end (48 R249). After a reset of the correlator no hypothesis locks before it has seen N
symbols, and a capture takes L more, so no packet comes in fewer than N + L symbols; the syncword itself locks with
its last symbol, and the L symbols after it are the packet. -/

namespace Sys2Proof.Machine

open Sys2Proof.Safety

/-! ## Hypotheses above THRESHOLD -/

/-- The block runs, meets the invariant and has not let a count wrap. -/
structure Receiving (a : Arch) : Prop where
  run : a.lifecycle = .run
  inv : ArchInv a
  bounded : CountsBounded a

/-- The hypotheses at least `m` symbols old are above THRESHOLD. -/
def AboveFrom (m : Nat) (a : Arch) : Prop :=
  ∀ i, m ≤ i → i < a.syncN → a.threshold.toNat < (a.eh.getS a.syncN (-(i : Int))).toNat

section
variable {a : Arch}

theorem Receiving.outside (h : Receiving a) : a.lifecycle ≠ .config := by rw [h.run]; decide

theorem Receiving.legal (h : Receiving a) : startLegal a = true := by
  obtain ⟨-, -, legal, -⟩ := h.inv
  exact legal h.outside

theorem Receiving.corrStep (h : Receiving a) (s : Bool) : Receiving (a.corrStep s).1 :=
  ⟨h.run, h.inv.corrStep h.outside s, h.bounded.corrStep h.inv h.outside s⟩

theorem Receiving.pktStep (h : Receiving a) (s : Bool) : Receiving (a.pktStep s).1 :=
  ⟨by rw [Arch.pktStep_lifecycle, h.run], h.inv.pktStep h.outside s, h.bounded.pktStep h.inv h.outside s⟩

/-- A symbol makes the hypotheses one symbol older and lowers no count. -/
theorem AboveFrom.corrStep {m : Nat} (above : AboveFrom m a) (h : Receiving a) (s : Bool) :
    AboveFrom (m + 1) (a.corrStep s).1 := by
  intro i older hi
  rw [Arch.corrStep_syncN] at hi ⊢
  obtain ⟨-, -, fits⟩ := corrRing h.inv h.outside
  have before := above (i - 1) (by omega) (by omega)
  have bound := h.bounded h.outside (i - 1) (by omega)
  have nolock := nolock_toNat h.inv h.outside
  obtain ⟨-, -, limit, -⟩ := startLegal_bounds h.legal
  have added : (if a.syncPat.getLsbD i = s then 0#32 else 1#32).toNat ≤ 1 := by split <;> decide
  rw [Arch.corrStep_getS h.inv h.outside s hi, if_neg (by omega), Arch.corrStep_threshold, BitVec.toNat_add,
    Nat.mod_eq_of_lt (by omega)]
  omega

/-- The lock result of a state whose oldest hypothesis is above THRESHOLD. -/
theorem AboveFrom.not_lock {m : Nat} {s : Bool} (above : AboveFrom m (a.corrStep s).1) (hm : m < a.syncN) :
    (a.corrStep s).2 = false := by
  have oldest := above (a.syncN - 1) (by omega) (Nat.sub_lt (by omega) Nat.one_pos)
  rw [← Bool.not_eq_true, Arch.corrStep_lock (by omega)]
  exact Nat.not_le.mpr oldest

/-- Where a symbol does not lock, the oldest hypothesis is above THRESHOLD after it. -/
theorem aboveFrom_of_not_lock {s : Bool} (hn : 0 < a.syncN) (free : (a.corrStep s).2 = false) :
    AboveFrom (a.syncN - 1) (a.corrStep s).1 := by
  intro i older hi
  rw [Arch.corrStep_syncN] at hi ⊢
  obtain rfl : i = a.syncN - 1 := by omega
  rw [← Bool.not_eq_true, Arch.corrStep_lock hn] at free
  exact Nat.not_le.mp free

/-- After the reset every hypothesis is above THRESHOLD (48 R247). -/
theorem aboveFrom_zero_of_nolock (h : Receiving a)
    (counts : ∀ i, i < a.syncN → a.eh.getS a.syncN (-(i : Int)) = a.nolock) : AboveFrom 0 a := by
  intro i _ hi
  rw [counts i hi, nolock_toNat h.inv h.outside]
  exact Nat.lt_succ_self _

end

/-! ## Symbols that emit no packet -/

/-- The next `k` symbols emit no packet: in Scanning a hypothesis locks when it is N symbols old at the earliest and
L symbols follow, in Capturing fewer than L - CAPIDX symbols are to come. -/
structure Quiet (k : Nat) (a : Arch) : Prop where
  scanning : a.pstate = .scanning → ∃ m, m < a.syncN ∧ k + m < a.syncN + a.pktL ∧ AboveFrom m a
  capturing : a.pstate = .capturing → k + a.capidx < a.pktL

/-- A symbol of them emits none, and one fewer is left. -/
theorem Quiet.pktStep {k : Nat} {a : Arch} (quiet : Quiet (k + 1) a) (h : Receiving a) (s : Bool) :
    (a.pktStep s).2 = false ∧ Quiet k (a.pktStep s).1 := by
  cases state : a.pstate with
  | scanning =>
    obtain ⟨m, young, few, above⟩ := quiet.scanning state
    have above' := above.corrStep h s
    rw [Arch.pktStep_of_scanning state]
    refine ⟨rfl, ?_⟩
    cases lock : (a.corrStep s).2 with
    | false =>
      refine ⟨fun _ => ?_, fun capturing => absurd (state.symm.trans capturing) (by decide)⟩
      by_cases last : m + 1 < a.syncN
      · exact ⟨m + 1, last, by show _ < a.syncN + a.pktL; omega, above'⟩
      · refine ⟨a.syncN - 1, by show _ < a.syncN; omega, by show _ < a.syncN + a.pktL; omega, ?_⟩
        exact aboveFrom_of_not_lock (by omega) lock
    | true =>
      have last : ¬ m + 1 < a.syncN := fun last => by
        rw [above'.not_lock last] at lock
        cases lock
      exact ⟨nofun, fun _ => by show k + 0 < a.pktL; omega⟩
  | capturing =>
    have few := quiet.capturing state
    rw [Arch.pktStep_of_more state (by omega)]
    refine ⟨rfl, fun scanning => absurd (state.symm.trans scanning) (by decide), fun _ => ?_⟩
    show k + (a.capidx + 1) < a.pktL
    omega

/-- The block after a sequence of symbols at its packetizer. -/
def Arch.pktFed (a : Arch) (fed : List Bool) : Arch := fed.foldl (fun a s => (a.pktStep s).1) a

theorem Arch.pktFed_append (a : Arch) (fed more : List Bool) :
    a.pktFed (fed ++ more) = (a.pktFed fed).pktFed more := List.foldl_append ..

theorem Arch.pktFed_concat (a : Arch) (fed : List Bool) (s : Bool) :
    a.pktFed (fed ++ [s]) = ((a.pktFed fed).pktStep s).1 := List.foldl_concat ..

theorem Receiving.pktFed {a : Arch} (h : Receiving a) (fed : List Bool) : Receiving (a.pktFed fed) := by
  induction fed using List.reverseRecOn with
  | nil => exact h
  | append_singleton fed s ih => rw [Arch.pktFed_concat]; exact ih.pktStep s

theorem answered_answered (s : State) (a b : Arch) (ws vs : List Word) :
    answered (answered s a ws) b vs = answered s b (ws ++ vs) :=
  congrArg (fun port => { s with arch := b, rspPort := port }) (List.append_assoc ..)

/-- A run of PKT_TICKs without a packet. -/
theorem runAll_pktTick_of_quiet {s : State} {fed : List Bool} (h : Receiving s.arch)
    (quiet : Quiet fed.length s.arch) : runAll s (fed.map fun b => .pktTick (bitImm b)) =
      answered s (s.arch.pktFed fed) (List.replicate fed.length 0x00009000#32) := by
  induction fed generalizing s with
  | nil => simp [runAll, answered, Arch.pktFed]
  | cons b fed ih =>
    obtain ⟨silent, quiet'⟩ := quiet.pktStep h b
    rw [List.map_cons, runAll_cons_of_next (exec_pktTick h.run b), ih (h.pktStep b) quiet', answered_answered, silent]
    rfl

/-! ## The syncword (48 R241) -/

/-- The N symbols of the syncword, the pattern's bit 0 first (48 R240). -/
def Arch.syncword (a : Arch) : List Bool := (List.range a.syncN).map fun i => a.syncPat.getLsbD i

theorem hammingDistance_syncword (a : Arch) : hammingDistance a a.syncword = 0 := by
  refine List.countP_eq_zero.mpr fun k hk => ?_
  have inside : k < a.syncN := List.mem_range.mp hk
  simp [Arch.syncword, inside]

section
variable {a : Arch}

theorem aboveFrom_corrFed (h : Receiving a) (above : AboveFrom 0 a) (fed : List Bool) :
    Receiving (a.corrFed fed) ∧ AboveFrom fed.length (a.corrFed fed) := by
  induction fed using List.reverseRecOn with
  | nil => exact ⟨h, above⟩
  | append_singleton fed s ih =>
    obtain ⟨receiving, above⟩ := ih
    rw [Arch.corrFed_concat, List.length_append, List.length_singleton]
    exact ⟨receiving.corrStep s, above.corrStep receiving s⟩

/-- Fewer than N symbols after a reset only step the correlator. -/
theorem pktFed_eq_corrFed (h : Receiving a) (scanning : a.pstate = .scanning) (above : AboveFrom 0 a)
    {fed : List Bool} (few : fed.length < a.syncN) : a.pktFed fed = a.corrFed fed := by
  induction fed using List.reverseRecOn with
  | nil => rfl
  | append_singleton fed s ih =>
    have frame := a.corrFed_eq fed
    obtain ⟨-, above'⟩ := aboveFrom_corrFed h above (fed ++ [s])
    rw [Arch.corrFed_concat] at above'
    have free := above'.not_lock (by rw [frame]; exact few)
    rw [List.length_append] at few
    rw [Arch.pktFed_concat, Arch.corrFed_concat, ih (by omega),
      Arch.pktStep_of_scanning (by rw [frame]; exact scanning), free]
    rfl

/-- The block where the syncword has locked. -/
def Arch.synced (a : Arch) : Arch :=
  { a with
    eh := (a.corrFed a.syncword).corrReset.1.eh, pstate := .capturing, capidx := 0, pktAvail := false }

/-- The syncword locks with its last symbol: its Hamming distance is 0. -/
theorem pktFed_syncword (h : Receiving a) (scanning : a.pstate = .scanning) (above : AboveFrom 0 a) :
    a.pktFed a.syncword = a.synced := by
  obtain ⟨positive, -⟩ := ehRing_bounds h.inv h.outside
  have size : a.syncword.length = a.syncN := by simp [Arch.syncword]
  have locked : (a.corrFed a.syncword).locked = true :=
    (Arch.corrFed_locked h.inv h.outside size.ge).mpr (by rw [hammingDistance_syncword]; exact Nat.zero_le _)
  obtain none | ⟨front, last, e⟩ := List.eq_nil_or_concat' a.syncword
  · rw [none] at size
    exact absurd size.symm positive.ne'
  · have few : front.length < a.syncN := by rw [← size, e, List.length_append]; exact Nat.lt_succ_self _
    have lock : ((a.corrFed front).corrStep last).2 = true := by
      rw [e, Arch.corrFed_concat] at locked
      exact locked
    calc a.pktFed a.syncword
      _ = ((a.corrFed front).pktStep last).1 := by
        rw [e, Arch.pktFed_concat, pktFed_eq_corrFed h scanning above few]
      _ = { (a.corrFed a.syncword).corrReset.1 with pstate := .capturing, capidx := 0, pktAvail := false } := by
        rw [Arch.pktStep_of_scanning (by rw [a.corrFed_eq]; exact scanning), lock, e, Arch.corrFed_concat]
        rfl
      _ = a.synced := congrArg (fun b : Arch => { b.corrReset.1 with
        pstate := .capturing, capidx := 0, pktAvail := false
        eh := (a.corrFed a.syncword).corrReset.1.eh }) (a.corrFed_eq a.syncword)

/-! ## The payload (48 R245) -/

/-- A bit stored behind the bits of `fed` makes them those of `fed` and the new symbol. -/
theorem setBit_getD {payload : BitVec 8192} {fed : List Bool} (inside : fed.length < 8192)
    (bits : ∀ i, i < fed.length → payload.getLsbD i = fed.getD i false) (s : Bool) {i : Nat}
    (hi : i < (fed ++ [s]).length) : (setBit payload fed.length s).getLsbD i = (fed ++ [s]).getD i false := by
  rw [List.length_append, List.length_singleton] at hi
  rw [getLsbD_setBit]
  by_cases last : fed.length = i
  · rw [if_pos ⟨last, inside⟩, List.getD_append_right _ _ _ _ last.le, ← last, Nat.sub_self]
    rfl
  · rw [if_neg fun h => last h.1, List.getD_append _ _ _ _ (by omega), bits i (by omega)]

/-- A capture of fewer than L symbols stores them. -/
theorem pktFed_of_capturing (capturing : a.pstate = .capturing) (start : a.capidx = 0) (fits : a.pktL ≤ 8192)
    {fed : List Bool} (few : fed.length < a.pktL) :
    ∃ payload : BitVec 8192, a.pktFed fed = { a with payload := payload, capidx := fed.length } ∧
      ∀ i, i < fed.length → payload.getLsbD i = fed.getD i false := by
  induction fed using List.reverseRecOn with
  | nil => exact ⟨a.payload, by rw [List.length_nil, ← start]; rfl, nofun⟩
  | append_singleton fed s ih =>
    rw [List.length_append, List.length_singleton] at few
    obtain ⟨payload, e, bits⟩ := ih (by omega)
    have more : fed.length + 1 ≠ a.pktL := by omega
    refine ⟨setBit payload fed.length s, ?_, fun i hi => setBit_getD (by omega) bits s hi⟩
    have stored := Arch.pktStep_of_more (a := { a with payload := payload, capidx := fed.length }) capturing more s
    rw [Arch.pktFed_concat, e, stored, List.length_append, List.length_singleton]

/-- The packet comes with the last of L symbols and equals them. -/
theorem pktStep_last_of_capturing (capturing : a.pstate = .capturing) (start : a.capidx = 0)
    (fits : a.pktL ≤ 8192) {fed : List Bool} {s : Bool} (all : (fed ++ [s]).length = a.pktL) :
    ∃ payload : BitVec 8192, (a.pktFed fed).pktStep s =
        ({ a with payload := payload, capidx := 0, pstate := .scanning, pktAvail := true
                  packetCount := a.packetCount + 1 }, true) ∧
      ∀ i, i < a.pktL → payload.getLsbD i = (fed ++ [s]).getD i false := by
  rw [List.length_append, List.length_singleton] at all
  obtain ⟨payload, e, bits⟩ := pktFed_of_capturing capturing start fits (fed := fed) (by omega)
  refine ⟨setBit payload fed.length s, ?_, fun i hi => ?_⟩
  · rw [e]
    exact Arch.pktStep_of_last (a := { a with payload := payload, capidx := fed.length }) capturing all s
  · exact setBit_getD (by omega) bits s (by rw [List.length_append, List.length_singleton, all]; exact hi)

end

/-! ## End to end -/

theorem quiet_of_aboveFrom_zero {a : Arch} (h : Receiving a) (scanning : a.pstate = .scanning)
    (above : AboveFrom 0 a) {k : Nat} (few : k < a.syncN + a.pktL) : Quiet k a :=
  ⟨fun _ => ⟨0, (ehRing_bounds h.inv h.outside).1, few, above⟩,
    fun capturing => absurd (scanning.symm.trans capturing) (by decide)⟩

theorem receiving_construct {a : Arch} (legal : startLegal a = true) : Receiving a.deriveConstants.construct :=
  ⟨rfl, .construct legal, .construct legal⟩

theorem exec_start {s : State} (config : s.arch.lifecycle = .config) (legal : startLegal s.arch = true) :
    exec .start s = .next (answered s s.arch.deriveConstants.construct [0x00000200#32]) :=
  exec_of_ok ((commandResult_start config).trans (if_pos legal)) rfl

/-- The block after the syncword and a packet with the bits `payload`. -/
def Arch.delivered (a : Arch) (payload : BitVec 8192) : Arch :=
  { a.synced with
    payload := payload, capidx := 0, pstate := .scanning, pktAvail := true
    packetCount := a.packetCount + 1 }

section
variable {s : State}

/-- After a packet the correlator is as the lock has reset it. -/
theorem aboveFrom_delivered {a : Arch} (h : Receiving a) {payload : BitVec 8192}
    (delivered : Receiving (a.delivered payload)) : AboveFrom 0 (a.delivered payload) := by
  have frame := a.corrFed_eq a.syncword
  have syncN : (a.corrFed a.syncword).syncN = a.syncN := by rw [frame]; rfl
  have nolock : (a.corrFed a.syncword).nolock = a.nolock := by rw [frame]
  have inv := archInv_corrFed h.inv h.outside a.syncword
  obtain ⟨positive, size⟩ := ehRing_bounds inv (by rw [frame]; exact h.outside)
  refine aboveFrom_zero_of_nolock delivered fun i _ => ?_
  have count := Arch.corrReset_getS positive size (-(i : Int))
  rw [syncN, nolock] at count
  exact count

/-- From a reset correlator the syncword and L symbols emit one packet, with the last of them. -/
theorem runAll_pktTick_packet (h : Receiving s.arch) (scanning : s.arch.pstate = .scanning)
    (above : AboveFrom 0 s.arch) {fed : List Bool} (size : fed.length = s.arch.pktL) :
    ∃ payload : BitVec 8192,
      runAll s ((s.arch.syncword ++ fed).map fun b => .pktTick (bitImm b)) =
        answered s (s.arch.delivered payload)
          (List.replicate (s.arch.syncN + s.arch.pktL - 1) 0x00009000#32 ++ [0x00009040#32]) ∧
      (∀ i, i < s.arch.pktL → payload.getLsbD i = fed.getD i false) ∧ Receiving (s.arch.delivered payload) := by
  obtain ⟨-, -, -, positive, fits⟩ := startLegal_bounds h.legal
  have syncLength : s.arch.syncword.length = s.arch.syncN := by simp [Arch.syncword]
  obtain rfl | ⟨front, last, rfl⟩ := List.eq_nil_or_concat' fed
  · exact absurd size (by simp; omega)
  obtain ⟨payload, e, bits⟩ := pktStep_last_of_capturing (a := s.arch.synced) rfl rfl fits size
  have step : (s.arch.pktFed (s.arch.syncword ++ front)).pktStep last = (s.arch.delivered payload, true) := by
    rw [Arch.pktFed_append, pktFed_syncword h scanning above, e]
    rfl
  have frontLength : (s.arch.syncword ++ front).length = s.arch.syncN + s.arch.pktL - 1 := by
    rw [List.length_append, List.length_singleton] at size
    rw [List.length_append, syncLength]
    omega
  have silent := runAll_pktTick_of_quiet h
    (quiet_of_aboveFrom_zero h scanning above (k := (s.arch.syncword ++ front).length) (by omega))
  have receiving := h.pktFed (s.arch.syncword ++ front)
  have receiving' := receiving.pktStep last
  rw [step] at receiving'
  refine ⟨payload, ?_, bits, receiving'⟩
  have answer := exec_pktTick_of_step (s := runAll s ((s.arch.syncword ++ front).map fun b => .pktTick (bitImm b)))
    (b := last) (pkt := true) (a := s.arch.delivered payload) (by rw [silent]; exact receiving.run)
    (by rw [silent]; exact step)
  rw [← List.append_assoc, List.map_append, List.map_singleton, runAll_concat_of_next answer, silent,
    answered_answered, frontLength]
  rfl

end

/-- Settles O49: START leaves every hypothesis above THRESHOLD, and so does the packet. It holds at every THRESHOLD,
since the distance of the syncword is 0 and NOLOCK keeps the hypotheses that began before it above THRESHOLD. -/
theorem packetizerEndToEnd : Obligations.PacketizerEndToEnd := by
  unfold Obligations.PacketizerEndToEnd
  intro s payload more config legal _ size few syncword tick t
  have receiving : Receiving (answered s s.arch.deriveConstants.construct [0x00000200#32]).arch :=
    receiving_construct legal
  have above : AboveFrom 0 (answered s s.arch.deriveConstants.construct [0x00000200#32]).arch :=
    aboveFrom_zero_of_nolock receiving fun i _ => construct_getS legal _
  obtain ⟨bits, run, stored, receiving'⟩ := runAll_pktTick_packet receiving rfl above size
  have reached : t = answered (answered s s.arch.deriveConstants.construct [0x00000200#32])
      (s.arch.deriveConstants.construct.delivered bits)
      (List.replicate (s.arch.syncN + s.arch.pktL - 1) 0x00009000#32 ++ [0x00009040#32]) :=
    (runAll_cons_of_next (exec_start config legal) _).trans run
  rw [reached]
  refine ⟨List.append_assoc .., rfl, rfl, stored, congrArg State.rspPort (runAll_pktTick_of_quiet receiving' ?_)⟩
  exact quiet_of_aboveFrom_zero receiving' rfl (aboveFrom_delivered receiving receiving') few

end Sys2Proof.Machine
end

section
/-! The symbol synchronizer and the receive chain (47_symbol_synchronizer.md, 49_descrambler_rx.md): one step by the
comparisons with TAU, RX_TICK as the commands it runs in a row, and its independence of LFSR. -/

namespace Sys2Proof.Machine

open Sys2Proof.Safety

/-! ## One synchronizer step (47 R220) -/

/-- The block with the sample `x` pushed and the clock at `phase` (47 R220 steps 1 and 2). -/
def Arch.ticked (a : Arch) (x : Cplx) (phase : Word) : Arch :=
  { a with raw := a.raw.push Config.rawDepth x, phase := phase }

section
variable {a : Arch} {x : Cplx}

/-- Below TAU the step pushes the sample and advances the clock. -/
theorem Arch.ssStep_of_below (below : fge (fadd a.phase a.rate) Config.tau = false) :
    a.ssStep x = (a.ticked x (fadd a.phase a.rate), .nothing) := by
  have tick : (a.pushRaw x).tick = (a.ticked x (fadd a.phase a.rate), none) :=
    Arch.advanceBy_of_below (a := a.pushRaw x) below
  rw [Arch.ssStep_none (congrArg Prod.snd tick), tick]

/-- At TAU the step goes on with the overrun. -/
theorem Arch.ssStep_of_reaches (reaches : fge (fadd a.phase a.rate) Config.tau = true) :
    a.ssStep x = (a.ticked x (fsub (fadd a.phase a.rate) Config.tau)).syncCorrect
      (fsub (fadd a.phase a.rate) Config.tau) := by
  have tick : (a.pushRaw x).tick = (a.ticked x (fsub (fadd a.phase a.rate) Config.tau),
      some (fsub (fadd a.phase a.rate) Config.tau)) :=
    Arch.advanceBy_of_reaches (a := a.pushRaw x) reaches
  rw [Arch.ssStep_some (congrArg Prod.snd tick), tick]

variable {v : Word}

/-- PHASE after the correction of an overrun `v`, before any reduction (47 R220 step 4). -/
def correctedPhase (a : Arch) (v : Word) : Word := fadd (syncFiltered a v).1.phase (syncFiltered a v).2

/-- A correction that stays below TAU ends with the gate. -/
theorem Arch.syncCorrect_of_below (below : fge (correctedPhase a v) Config.tau = false) :
    a.syncCorrect v = Arch.toggleGate { (syncFiltered a v).1 with phase := correctedPhase a v }
      (interpolate a.raw (fdiv v Config.tau)) := by
  have advance := Arch.advanceBy_of_below (a := (syncFiltered a v).1) (d := (syncFiltered a v).2) below
  rcases Arch.syncCorrect_cases a v with ⟨w, overrun, -⟩ | ⟨-, e⟩
  · rw [advance] at overrun; cases overrun
  · rw [e, advance]; rfl

/-- One that reaches TAU diverges, with PHASE reduced once (47 R221). -/
theorem Arch.syncCorrect_of_reaches (reaches : fge (correctedPhase a v) Config.tau = true) :
    a.syncCorrect v =
      ({ (syncFiltered a v).1 with phase := fsub (correctedPhase a v) Config.tau }, .diverged) := by
  have advance := Arch.advanceBy_of_reaches (a := (syncFiltered a v).1) (d := (syncFiltered a v).2) reaches
  rcases Arch.syncCorrect_cases a v with ⟨w, -, e⟩ | ⟨none, -⟩
  · rw [e, advance]; rfl
  · rw [advance] at none; cases none

end

/-! ## SS_TICK (47 R223) -/

section
variable {s : State} {re im : Word} {b : Arch} {y : Cplx}

theorem encode_ssTick (re im : Word) : encode (.ssTick re im) = [0x00002070#32, re, im] :=
  congrArg (· :: [re, im]) (show mkHeader 0#16 2#2 0#4 0x70#8 = 0x00002070#32 from rfl)

theorem okWords_ssTick_symbol (y : Cplx) :
    okWords .ssTick { valid := true, data := [y.re, y.im] } = [0x00027010#32, y.re, y.im] :=
  congrArg (· :: [y.re, y.im]) (show mkRspHeader 2#2 0x70#8 false false true 0#4 = 0x00027010#32 from rfl)

theorem exec_ssTick (run : s.arch.lifecycle = .run) {out : SyncOut}
    (step : s.arch.countSample.ssStep ⟨re, im⟩ = (b, out)) :
    exec (.ssTick re im) s = finish .ssTick s (ssTickResult (b, out)) := by
  rw [exec_eq_finish, commandResult_mutate rfl run, ← step]
  rfl

theorem exec_ssTick_nothing (run : s.arch.lifecycle = .run)
    (step : s.arch.countSample.ssStep ⟨re, im⟩ = (b, .nothing)) :
    exec (.ssTick re im) s = .next (answered s b [0x00027000#32, 0#32, 0#32]) := exec_ssTick run step

theorem exec_ssTick_symbol (run : s.arch.lifecycle = .run)
    (step : s.arch.countSample.ssStep ⟨re, im⟩ = (b, .symbol y)) :
    exec (.ssTick re im) s = .next (answered s b [0x00027010#32, y.re, y.im]) := by
  rw [exec_ssTick run step, ssTickResult, finish_ok_answered, okWords_ssTick_symbol]

theorem exec_ssTick_diverged (run : s.arch.lifecycle = .run)
    (step : s.arch.countSample.ssStep ⟨re, im⟩ = (b, .diverged)) :
    exec (.ssTick re im) s = .next (answered s b.takeDivergence [0x00007009#32]) := exec_ssTick run step

/-- A step that ends with the gate emits where the toggle leaves GATE 0 (47 R222). -/
theorem exec_ssTick_gate (run : s.arch.lifecycle = .run)
    (step : s.arch.countSample.ssStep ⟨re, im⟩ = b.toggleGate y) :
    exec (.ssTick re im) s = .next (answered s { b with gate := !b.gate }
      (if b.gate = true then [0x00027010#32, y.re, y.im] else [0x00027000#32, 0#32, 0#32])) := by
  rw [Arch.toggleGate] at step
  cases gate : b.gate with
  | true =>
    rw [gate] at step
    exact exec_ssTick_symbol run step
  | false =>
    rw [gate] at step
    exact exec_ssTick_nothing run step

end

/-- Settles O44: the two comparisons with TAU choose the case, and then GATE. -/
theorem ssTickSteps : Obligations.SsTickSteps := by
  unfold Obligations.SsTickSteps
  refine ⟨encode_ssTick, fun s re im => ?_⟩
  intro a a1 p v y ih e integ q
  have badState : errorWords Opcode.ssTick.byte .badState = [0x00007003#32] := rfl
  have faulted : errorWords Opcode.ssTick.byte .faulted = [0x00007004#32] := rfl
  have overran (reaches : fge p 0x40C90FDB#32 = true) :
      a.countSample.ssStep ⟨re, im⟩ = Arch.syncCorrect { a1 with phase := v } v :=
    Arch.ssStep_of_reaches (a := a.countSample) reaches
  refine ⟨fun run below => ?_, fun run reaches below => ?_, fun run reaches diverges => ?_,
    fun config => exec_mutate_of_config rfl config badState,
    fun fault => exec_mutate_of_fault rfl fault faulted⟩
  · exact exec_ssTick_nothing run (Arch.ssStep_of_below (a := a.countSample) below)
  · exact exec_ssTick_gate run
      ((overran reaches).trans (Arch.syncCorrect_of_below (a := { a1 with phase := v }) below))
  · exact exec_ssTick_diverged run
      ((overran reaches).trans (Arch.syncCorrect_of_reaches (a := { a1 with phase := v }) diverges))

/-! ## RX_TICK (49 R272) -/

section
variable {s : State} {re im : Word} {b : Arch} {y : Cplx}

theorem encode_rxTick (re im : Word) : encode (.rxTick re im) = [0x000020B0#32, re, im] :=
  congrArg (· :: [re, im]) (show mkHeader 0#16 2#2 0#4 0xB0#8 = 0x000020B0#32 from rfl)

theorem okWords_rxTick_symbol (bit pkt : Bool) (y : Cplx) :
    okWords .rxTick { valid := true, bit := bit, pkt := pkt, data := [y.re, y.im] } =
      [if pkt = true then (if bit = true then 0x0002B070#32 else 0x0002B050#32)
        else (if bit = true then 0x0002B030#32 else 0x0002B010#32), y.re, y.im] := by
  refine congrArg (· :: [y.re, y.im]) ?_
  show mkRspHeader 2#2 0xB0#8 pkt bit true 0#4 = _
  cases pkt <;> cases bit <;> rfl

theorem exec_rxTick (run : s.arch.lifecycle = .run) {out : SyncOut}
    (step : s.arch.countSample.ssStep ⟨re, im⟩ = (b, out)) :
    exec (.rxTick re im) s = finish .rxTick s (rxTickResult s.arch.sampleCount (b, out)) := by
  rw [exec_eq_finish, commandResult_mutate rfl run, ← step]
  rfl

theorem exec_rxTick_symbol (run : s.arch.lifecycle = .run)
    (step : s.arch.countSample.ssStep ⟨re, im⟩ = (b, .symbol y)) {c : Arch} {pkt : Bool}
    (chain : b.chainStep s.arch.sampleCount (slice y) = (c, pkt)) :
    exec (.rxTick re im) s = .next (answered s c
      [if pkt = true then (if slice y = true then 0x0002B070#32 else 0x0002B050#32)
        else (if slice y = true then 0x0002B030#32 else 0x0002B010#32), y.re, y.im]) := by
  rw [exec_rxTick run step, rxTickResult, chain, finish_ok_answered, okWords_rxTick_symbol]

end

/-- Settles O55: how the synchronizer step ends, and then whether the packetizer step emits, choose the case. -/
theorem rxTickRunsTheChain : Obligations.RxTickRunsTheChain := by
  unfold Obligations.RxTickRunsTheChain
  refine ⟨encode_rxTick, fun s re im => ?_⟩
  intro a
  have badState : errorWords Opcode.rxTick.byte .badState = [0x0000B003#32] := rfl
  have faulted : errorWords Opcode.rxTick.byte .faulted = [0x0000B004#32] := rfl
  refine ⟨fun run => ?_, fun run below => ?_, fun config => exec_mutate_of_config rfl config badState,
    fun fault => exec_mutate_of_fault rfl fault faulted⟩
  · rcases step : a.countSample.ssStep ⟨re, im⟩ with ⟨b, out⟩
    have run' : b.lifecycle = .run := by
      have left := congrArg (fun p => p.1.lifecycle) step
      rw [Arch.ssStep_lifecycle] at left
      exact left.symm.trans run
    cases out with
    | diverged => exact .inl ⟨b.takeDivergence, exec_ssTick_diverged run step, exec_rxTick run step⟩
    | nothing => exact .inr (.inl ⟨b, exec_ssTick_nothing run step, exec_rxTick run step⟩)
    | symbol y =>
      have packetizer := exec_pktTick (s := s.withArch b) run' (slice y)
      have symbol := exec_ssTick_symbol run step
      rcases Arch.chainStep_cases b a.sampleCount (slice y) with ⟨silent, chain⟩ | ⟨emits, chain⟩
      · rw [State.withArch_arch, silent] at packetizer
        exact .inr (.inr (.inl ⟨b, _, y.re, y.im, symbol, packetizer, exec_rxTick_symbol run step chain⟩))
      · rw [State.withArch_arch, emits] at packetizer
        have descrambler := exec_descramble (s := s.withArch (b.pktStep (slice y)).1)
          (by rw [State.withArch_arch, Arch.pktStep_lifecycle, run'])
        exact .inr (.inr (.inr ⟨b, _, _, y.re, y.im, symbol, packetizer, descrambler,
          exec_rxTick_symbol run step chain⟩))
  · exact exec_rxTick run (Arch.ssStep_of_below (a := a.countSample) below)

/-! ## Independence of LFSR (49 R270) -/

/-- The block with another LFSR. -/
def Arch.withLfsr (a : Arch) (l : Byte) : Arch := { a with lfsr := l }

section
variable (a : Arch) (l : Byte)

theorem Arch.syncCorrect_withLfsr (v : Word) :
    (a.withLfsr l).syncCorrect v = ((a.syncCorrect v).1.withLfsr l, (a.syncCorrect v).2) := by
  have same : correctedPhase (a.withLfsr l) v = correctedPhase a v := rfl
  cases h : fge (correctedPhase a v) Config.tau with
  | false => rw [Arch.syncCorrect_of_below h, Arch.syncCorrect_of_below (same ▸ h)]; rfl
  | true => rw [Arch.syncCorrect_of_reaches h, Arch.syncCorrect_of_reaches (same ▸ h)]; rfl

theorem Arch.ssStep_withLfsr (x : Cplx) :
    (a.withLfsr l).ssStep x = ((a.ssStep x).1.withLfsr l, (a.ssStep x).2) := by
  cases h : fge (fadd a.phase a.rate) Config.tau with
  | false => rw [Arch.ssStep_of_below h, Arch.ssStep_of_below (a := a.withLfsr l) h]; rfl
  | true =>
    rw [Arch.ssStep_of_reaches h, Arch.ssStep_of_reaches (a := a.withLfsr l) h]
    exact Arch.syncCorrect_withLfsr (a.ticked x (fsub (fadd a.phase a.rate) Config.tau)) l _

theorem Arch.pktStep_withLfsr (s : Bool) :
    (a.withLfsr l).pktStep s = ((a.pktStep s).1.withLfsr l, (a.pktStep s).2) := by
  cases state : a.pstate with
  | scanning =>
    have lock : ((a.withLfsr l).corrStep s).2 = (a.corrStep s).2 := rfl
    rw [Arch.pktStep_of_scanning state, Arch.pktStep_of_scanning (a := a.withLfsr l) state, lock]
    cases (a.corrStep s).2 <;> rfl
  | capturing =>
    by_cases last : a.capidx + 1 = a.pktL
    · rw [Arch.pktStep_of_last state last, Arch.pktStep_of_last (a := a.withLfsr l) state last]; rfl
    · rw [Arch.pktStep_of_more state last, Arch.pktStep_of_more (a := a.withLfsr l) state last]; rfl

/-- The chain reseeds LFSR where it emits a packet, and leaves it where it emits none. -/
theorem Arch.chainStep_withLfsr (sample : BitVec 64) (bit : Bool) :
    ∃ l', (a.withLfsr l).chainStep sample bit =
      ((a.chainStep sample bit).1.withLfsr l', (a.chainStep sample bit).2) := by
  have packetizer := a.pktStep_withLfsr l bit
  rcases Arch.chainStep_cases a sample bit with ⟨silent, e⟩ | ⟨emits, e⟩ <;>
    rcases Arch.chainStep_cases (a.withLfsr l) sample bit with ⟨silent', e'⟩ | ⟨emits', e'⟩
  · exact ⟨l, by rw [e, e', packetizer]⟩
  · rw [packetizer] at emits'
    cases silent.symm.trans emits'
  · rw [packetizer] at silent'
    cases emits.symm.trans silent'
  · exact ⟨_, by rw [e, e', packetizer]; rfl⟩

/-- RX_TICK answers the same and leaves the same but for LFSR. -/
theorem commandResult_rxTick_withLfsr (re im : Word) :
    ∃ l', (commandResult (.rxTick re im) (a.withLfsr l)).leaves (a.withLfsr l) =
        ((commandResult (.rxTick re im) a).leaves a).withLfsr l' ∧
      (commandResult (.rxTick re im) (a.withLfsr l)).header .rxTick =
        (commandResult (.rxTick re im) a).header .rxTick ∧
      (commandResult (.rxTick re im) (a.withLfsr l)).words = (commandResult (.rxTick re im) a).words := by
  by_cases run : a.lifecycle = .run
  · rw [commandResult_mutate rfl run, commandResult_mutate (a := a.withLfsr l) rfl run]
    have step : (a.withLfsr l).countSample.ssStep ⟨re, im⟩ = _ := a.countSample.ssStep_withLfsr l ⟨re, im⟩
    simp only [commandBody, sampleOperand, step]
    rcases a.countSample.ssStep ⟨re, im⟩ with ⟨b, _ | y | _⟩
    · exact ⟨l, rfl, rfl, rfl⟩
    · obtain ⟨l', chain⟩ := b.chainStep_withLfsr l a.sampleCount (slice y)
      refine ⟨l', ?_⟩
      rw [rxTickResult, rxTickResult, show (a.withLfsr l).sampleCount = a.sampleCount from rfl, chain]
      exact ⟨rfl, rfl, rfl⟩
    · exact ⟨l, rfl, rfl, rfl⟩
  · obtain ⟨rc, refused⟩ := classError_of_not_run (i := .rxTick re im) rfl run
    rw [commandResult_refused (by simp) refused, commandResult_refused (a := a.withLfsr l) (by simp) refused]
    exact ⟨l, rfl, rfl, rfl⟩

end

/-- Settles O54: DESCRAMBLE reads the seed in place of LFSR, and no other step of the chain reads LFSR. -/
theorem descramblingIgnoresTheOldLfsr : Obligations.DescramblingIgnoresTheOldLfsr := by
  unfold Obligations.DescramblingIgnoresTheOldLfsr
  intro s l s'
  refine ⟨fun run => ?_, fun re im t t' h h' => ?_⟩
  · rw [exec_descramble run, exec_descramble (s := s') run]
    rfl
  · obtain rfl := exec_eq_next_iff.mp h
    obtain rfl := exec_eq_next_iff.mp h'
    obtain ⟨l', left, header, words⟩ := commandResult_rxTick_withLfsr s.arch l re im
    have answer := congrArg₂ List.cons header words
    exact ⟨congrArg (s.rspPort ++ ·) answer, congrArg (fun b : Arch => { b with
      lfsr := ((commandResult (.rxTick re im) s.arch).leaves s.arch).lfsr }) left⟩

end Sys2Proof.Machine
end
